-- ==== Sys2Proof/Word.lean ====
section
/-! DEFINITION. The machine's number types (00_scope.md R6, R8: every value is unsigned and of fixed width). -/

namespace Sys2Proof

/-- 8 bits: a general register, a timer, a memory cell, the immediate `NN` (R6). -/
abbrev Byte := BitVec 8

/-- 16 bits: `pc`, `I`, a return address, an instruction word (R6, R60). -/
abbrev Word := BitVec 16

/-- 12 bits: the address field `NNN` (R61). -/
abbrev Addr12 := BitVec 12

/-- The index of a general register, 0 to 15 (R10). -/
abbrev Reg := Fin 16

/-- A key code, 0 to 15 (R19). -/
abbrev KeyCode := BitVec 4

/-- `VF`, general register 15, the flag register (R11). -/
def VF : Reg := 15

end Sys2Proof
end

