-- ==== Sys2Proof/Syntax.lean ====
section
/-! DEFINITION. The 35 instructions of 30_encoding.md R63, one constructor per row of spec/opcode_table.json, in the table's order. -/

namespace Sys2Proof

/-- An instruction with its operands (R61, R69): `nnn` is a 12-bit byte address, `nn` an unsigned byte, `x` and `y` register
indexes, `n` a row count 0 to 15. -/
inductive Instr
  /-- Row 1, `0NNN`: `SYS NNN` (R80). -/
  | sys (nnn : Addr12)
  /-- Row 2, `00E0`: `CLS` (R130). -/
  | cls
  /-- Row 3, `00EE`: `RET` (R81). -/
  | ret
  /-- Row 4, `1NNN`: `JP NNN` (R82). -/
  | jp (nnn : Addr12)
  /-- Row 5, `2NNN`: `CALL NNN` (R83). -/
  | call (nnn : Addr12)
  /-- Row 6, `3XNN`: `SE VX, NN` (R84). -/
  | seImm (x : Reg) (nn : Byte)
  /-- Row 7, `4XNN`: `SNE VX, NN` (R85). -/
  | sneImm (x : Reg) (nn : Byte)
  /-- Row 8, `5XY0`: `SE VX, VY` (R86). -/
  | seReg (x y : Reg)
  /-- Row 9, `6XNN`: `LD VX, NN` (R100). -/
  | ldImm (x : Reg) (nn : Byte)
  /-- Row 10, `7XNN`: `ADD VX, NN` (R101). -/
  | addImm (x : Reg) (nn : Byte)
  /-- Row 11, `8XY0`: `LD VX, VY` (R102). -/
  | ldReg (x y : Reg)
  /-- Row 12, `8XY1`: `OR VX, VY` (R103). -/
  | orReg (x y : Reg)
  /-- Row 13, `8XY2`: `AND VX, VY` (R104). -/
  | andReg (x y : Reg)
  /-- Row 14, `8XY3`: `XOR VX, VY` (R105). -/
  | xorReg (x y : Reg)
  /-- Row 15, `8XY4`: `ADD VX, VY` (R106). -/
  | addReg (x y : Reg)
  /-- Row 16, `8XY5`: `SUB VX, VY` (R107). -/
  | sub (x y : Reg)
  /-- Row 17, `8XY6`: `SHR VX, VY` (R108). -/
  | shr (x y : Reg)
  /-- Row 18, `8XY7`: `SUBN VX, VY` (R109). -/
  | subn (x y : Reg)
  /-- Row 19, `8XYE`: `SHL VX, VY` (R110). -/
  | shl (x y : Reg)
  /-- Row 20, `9XY0`: `SNE VX, VY` (R87). -/
  | sneReg (x y : Reg)
  /-- Row 21, `ANNN`: `LD I, NNN` (R120). -/
  | ldI (nnn : Addr12)
  /-- Row 22, `BNNN`: `JP V0, NNN` (R88). -/
  | jpV0 (nnn : Addr12)
  /-- Row 23, `CXNN`: `RND VX, NN` (R111). -/
  | rnd (x : Reg) (nn : Byte)
  /-- Row 24, `DXYN`: `DRW VX, VY, N` (R131). -/
  | drw (x y : Reg) (n : Fin 16)
  /-- Row 25, `EX9E`: `SKP VX` (R140). -/
  | skp (x : Reg)
  /-- Row 26, `EXA1`: `SKNP VX` (R141). -/
  | sknp (x : Reg)
  /-- Row 27, `FX07`: `LD VX, DT` (R143). -/
  | ldVxDt (x : Reg)
  /-- Row 28, `FX0A`: `LD VX, K` (R142). -/
  | ldVxK (x : Reg)
  /-- Row 29, `FX15`: `LD DT, VX` (R144). -/
  | ldDtVx (x : Reg)
  /-- Row 30, `FX18`: `LD ST, VX` (R145). -/
  | ldStVx (x : Reg)
  /-- Row 31, `FX1E`: `ADD I, VX` (R121). -/
  | addI (x : Reg)
  /-- Row 32, `FX29`: `LD F, VX` (R122). -/
  | ldF (x : Reg)
  /-- Row 33, `FX33`: `LD B, VX` (R123). -/
  | ldB (x : Reg)
  /-- Row 34, `FX55`: `LD [I], VX` (R124). -/
  | ldMemVx (x : Reg)
  /-- Row 35, `FX65`: `LD VX, [I]` (R125). -/
  | ldVxMem (x : Reg)
  deriving DecidableEq, Repr

end Sys2Proof
end

