-- ==== Sys2Proof/WellFormed.lean ====
section
/-! DEFINITION. Which terms of `Instr` are instructions of the hardware. The field types already bound every operand (R61, R69:
all 16 register numbers, every `NN`, every `NNN` and every `N` are legal); the one check left is `SYS`'s. -/

namespace Sys2Proof

/-- `SYS NNN` is any word of family 0 "and not row 2 or 3": 0x0E0 and 0x0EE are `CLS` and `RET` (R63, R64). -/
def Instr.wf : Instr → Bool
  | .sys nnn => nnn != 0x0E0 && nnn != 0x0EE
  | _ => true

end Sys2Proof
end

