-- ==== Sys2Proof/Decode.lean ====
section
/-! DEFINITION. From bytes to an instruction (R60, R61, R64, R65) and back (R62, R63). Decoding is total on any bytes and rejects
by name. -/

namespace Sys2Proof

/-- Why some bytes are no instruction (R65), or are too few to hold one (R60). -/
inductive Reject
  /-- `5XYN` with `N` other than 0. -/
  | reservedFamily5
  /-- `8XYN` with `N` in 8, 9, A, B, C, D, F. -/
  | reservedFamily8
  /-- `9XYN` with `N` other than 0. -/
  | reservedFamily9
  /-- `EXNN` with `NN` other than 9E and A1. -/
  | reservedFamilyE
  /-- `FXNN` with `NN` none of the nine of family F. -/
  | reservedFamilyF
  /-- Fewer than the two bytes every instruction has. -/
  | tooShort
  deriving DecidableEq, Repr

/-- `w[hi:lo]`, "as an unsigned number of `hi - lo + 1` bits" (R8). -/
def slice (w : Word) (hi lo : Nat) : Nat := w.toNat / 2 ^ lo % 2 ^ (hi + 1 - lo)

/-- `OP = instr[15:12]` (R61). -/
def fieldOP (w : Word) : Nat := slice w 15 12

/-- `X = instr[11:8]` (R61). -/
def fieldX (w : Word) : Reg := Fin.ofNat 16 (slice w 11 8)

/-- `Y = instr[7:4]` (R61). -/
def fieldY (w : Word) : Reg := Fin.ofNat 16 (slice w 7 4)

/-- `N = instr[3:0]` (R61). -/
def fieldN (w : Word) : Fin 16 := Fin.ofNat 16 (slice w 3 0)

/-- `NN = instr[7:0]` (R61). -/
def fieldNN (w : Word) : Byte := BitVec.ofNat 8 (slice w 7 0)

/-- `NNN = instr[11:0]` (R61). -/
def fieldNNN (w : Word) : Addr12 := BitVec.ofNat 12 (slice w 11 0)

/-- Family 0: "every other word of the family (4094 words, including 0x0000) is SYS" (R64 step 2). -/
def decodeFamily0 (w : Word) : Instr :=
  if w = 0x00E0 then .cls else if w = 0x00EE then .ret else .sys (fieldNNN w)

/-- Family 8, by `N` (R64 step 5). -/
def decodeFamily8 (w : Word) : Except Reject Instr :=
  match (fieldN w).val with
  | 0x0 => .ok (.ldReg (fieldX w) (fieldY w))
  | 0x1 => .ok (.orReg (fieldX w) (fieldY w))
  | 0x2 => .ok (.andReg (fieldX w) (fieldY w))
  | 0x3 => .ok (.xorReg (fieldX w) (fieldY w))
  | 0x4 => .ok (.addReg (fieldX w) (fieldY w))
  | 0x5 => .ok (.sub (fieldX w) (fieldY w))
  | 0x6 => .ok (.shr (fieldX w) (fieldY w))
  | 0x7 => .ok (.subn (fieldX w) (fieldY w))
  | 0xE => .ok (.shl (fieldX w) (fieldY w))
  | _ => .error .reservedFamily8

/-- Family E, by `NN` (R64 step 6). -/
def decodeFamilyE (w : Word) : Except Reject Instr :=
  if fieldNN w = 0x9E then .ok (.skp (fieldX w))
  else if fieldNN w = 0xA1 then .ok (.sknp (fieldX w))
  else .error .reservedFamilyE

/-- Family F, by `NN` (R64 step 7). -/
def decodeFamilyF (w : Word) : Except Reject Instr :=
  if fieldNN w = 0x07 then .ok (.ldVxDt (fieldX w))
  else if fieldNN w = 0x0A then .ok (.ldVxK (fieldX w))
  else if fieldNN w = 0x15 then .ok (.ldDtVx (fieldX w))
  else if fieldNN w = 0x18 then .ok (.ldStVx (fieldX w))
  else if fieldNN w = 0x1E then .ok (.addI (fieldX w))
  else if fieldNN w = 0x29 then .ok (.ldF (fieldX w))
  else if fieldNN w = 0x33 then .ok (.ldB (fieldX w))
  else if fieldNN w = 0x55 then .ok (.ldMemVx (fieldX w))
  else if fieldNN w = 0x65 then .ok (.ldVxMem (fieldX w))
  else .error .reservedFamilyF

/-- The decode procedure, "a function of the 16-bit word alone" (R64). `OP` is below 16, so the last arm is family F. -/
def decode (w : Word) : Except Reject Instr :=
  match fieldOP w with
  | 0x0 => .ok (decodeFamily0 w)
  | 0x1 => .ok (.jp (fieldNNN w))
  | 0x2 => .ok (.call (fieldNNN w))
  | 0x3 => .ok (.seImm (fieldX w) (fieldNN w))
  | 0x4 => .ok (.sneImm (fieldX w) (fieldNN w))
  | 0x5 => if fieldN w = 0 then .ok (.seReg (fieldX w) (fieldY w)) else .error .reservedFamily5
  | 0x6 => .ok (.ldImm (fieldX w) (fieldNN w))
  | 0x7 => .ok (.addImm (fieldX w) (fieldNN w))
  | 0x8 => decodeFamily8 w
  | 0x9 => if fieldN w = 0 then .ok (.sneReg (fieldX w) (fieldY w)) else .error .reservedFamily9
  | 0xA => .ok (.ldI (fieldNNN w))
  | 0xB => .ok (.jpV0 (fieldNNN w))
  | 0xC => .ok (.rnd (fieldX w) (fieldNN w))
  | 0xD => .ok (.drw (fieldX w) (fieldY w) (fieldN w))
  | 0xE => decodeFamilyE w
  | _ => decodeFamilyF w

/-- The 16-bit word of two bytes, "high byte at the lower address" (R43, R60). -/
def wordOfBytes (hi lo : Byte) : Word := BitVec.ofNat 16 (hi.toNat * 0x100 + lo.toNat)

/-- The byte of a word at the lower address (R43). -/
def hiByte (w : Word) : Byte := BitVec.ofNat 8 (slice w 15 8)

/-- The byte of a word at the higher address (R43). -/
def loByte (w : Word) : Byte := BitVec.ofNat 8 (slice w 7 0)

/-- The instruction at the head of some bytes, and the bytes after it. -/
def decodeBytes : List Byte → Except Reject (Instr × List Byte)
  | hi :: lo :: rest =>
    match decode (wordOfBytes hi lo) with
    | .ok i => .ok (i, rest)
    | .error e => .error e
  | _ => .error .tooShort

/-- What the decoder reads from the instruction whose bits the opcode table numbers as `w`: bit 15 is the high byte's (R8), so the
word's high byte is laid down first. DEDUCED; log 12. -/
def decodeTableWord (nbits w : Nat) : Option Instr :=
  let word : Word := BitVec.ofNat 16 (w % 2 ^ nbits)
  match decodeBytes [hiByte word, loByte word] with
  | .ok (i, _) => some i
  | .error _ => none

/-! ### The encoder -/

/-- Format `NNN` (R62): the family nibble and the address field. -/
def wordNNN (op : Nat) (nnn : Addr12) : Word := BitVec.ofNat 16 (op * 0x1000 + nnn.toNat)

/-- Format `XNN` (R62), and format `X` with its fixed low byte. -/
def wordXNN (op : Nat) (x : Reg) (nn : Byte) : Word := BitVec.ofNat 16 (op * 0x1000 + x.val * 0x100 + nn.toNat)

/-- Format `XYN` (R62). -/
def wordXYN (op : Nat) (x y : Reg) (n : Fin 16) : Word :=
  BitVec.ofNat 16 (op * 0x1000 + x.val * 0x100 + y.val * 0x10 + n.val)

/-- The word of an instruction, by its pattern in R63. -/
def encode : Instr → Word
  | .sys nnn => wordNNN 0x0 nnn
  | .cls => 0x00E0
  | .ret => 0x00EE
  | .jp nnn => wordNNN 0x1 nnn
  | .call nnn => wordNNN 0x2 nnn
  | .seImm x nn => wordXNN 0x3 x nn
  | .sneImm x nn => wordXNN 0x4 x nn
  | .seReg x y => wordXYN 0x5 x y 0x0
  | .ldImm x nn => wordXNN 0x6 x nn
  | .addImm x nn => wordXNN 0x7 x nn
  | .ldReg x y => wordXYN 0x8 x y 0x0
  | .orReg x y => wordXYN 0x8 x y 0x1
  | .andReg x y => wordXYN 0x8 x y 0x2
  | .xorReg x y => wordXYN 0x8 x y 0x3
  | .addReg x y => wordXYN 0x8 x y 0x4
  | .sub x y => wordXYN 0x8 x y 0x5
  | .shr x y => wordXYN 0x8 x y 0x6
  | .subn x y => wordXYN 0x8 x y 0x7
  | .shl x y => wordXYN 0x8 x y 0xE
  | .sneReg x y => wordXYN 0x9 x y 0x0
  | .ldI nnn => wordNNN 0xA nnn
  | .jpV0 nnn => wordNNN 0xB nnn
  | .rnd x nn => wordXNN 0xC x nn
  | .drw x y n => wordXYN 0xD x y n
  | .skp x => wordXNN 0xE x 0x9E
  | .sknp x => wordXNN 0xE x 0xA1
  | .ldVxDt x => wordXNN 0xF x 0x07
  | .ldVxK x => wordXNN 0xF x 0x0A
  | .ldDtVx x => wordXNN 0xF x 0x15
  | .ldStVx x => wordXNN 0xF x 0x18
  | .addI x => wordXNN 0xF x 0x1E
  | .ldF x => wordXNN 0xF x 0x29
  | .ldB x => wordXNN 0xF x 0x33
  | .ldMemVx x => wordXNN 0xF x 0x55
  | .ldVxMem x => wordXNN 0xF x 0x65

/-! ### The opcode map as the manual prints it

`decode` follows the procedure R64; the table R63 is written out beside it, so that the two can be held against each other. -/

/-- A row of R63: `w` is instruction number `row` when `w & mask = value`, the words of `excluded` apart. -/
structure OpcodeRow where
  row : Nat
  value : Word
  mask : Word
  excluded : List Word
  deriving DecidableEq, Repr

/-- "An instruction word `w` is instruction `k` when `w & mask_k = match_k`" (R63). -/
def OpcodeRow.matchesWord (r : OpcodeRow) (w : Word) : Bool := w &&& r.mask == r.value && !r.excluded.contains w

/-- The 35 rows of R63. -/
def opcodeTable : List OpcodeRow :=
  [⟨1, 0x0000, 0xF000, [0x00E0, 0x00EE]⟩, ⟨2, 0x00E0, 0xFFFF, []⟩, ⟨3, 0x00EE, 0xFFFF, []⟩, ⟨4, 0x1000, 0xF000, []⟩,
   ⟨5, 0x2000, 0xF000, []⟩, ⟨6, 0x3000, 0xF000, []⟩, ⟨7, 0x4000, 0xF000, []⟩, ⟨8, 0x5000, 0xF00F, []⟩,
   ⟨9, 0x6000, 0xF000, []⟩, ⟨10, 0x7000, 0xF000, []⟩] ++
  [⟨11, 0x8000, 0xF00F, []⟩, ⟨12, 0x8001, 0xF00F, []⟩, ⟨13, 0x8002, 0xF00F, []⟩, ⟨14, 0x8003, 0xF00F, []⟩,
   ⟨15, 0x8004, 0xF00F, []⟩, ⟨16, 0x8005, 0xF00F, []⟩, ⟨17, 0x8006, 0xF00F, []⟩, ⟨18, 0x8007, 0xF00F, []⟩,
   ⟨19, 0x800E, 0xF00F, []⟩, ⟨20, 0x9000, 0xF00F, []⟩] ++
  [⟨21, 0xA000, 0xF000, []⟩, ⟨22, 0xB000, 0xF000, []⟩, ⟨23, 0xC000, 0xF000, []⟩, ⟨24, 0xD000, 0xF000, []⟩,
   ⟨25, 0xE09E, 0xF0FF, []⟩, ⟨26, 0xE0A1, 0xF0FF, []⟩] ++
  [⟨27, 0xF007, 0xF0FF, []⟩, ⟨28, 0xF00A, 0xF0FF, []⟩, ⟨29, 0xF015, 0xF0FF, []⟩, ⟨30, 0xF018, 0xF0FF, []⟩,
   ⟨31, 0xF01E, 0xF0FF, []⟩, ⟨32, 0xF029, 0xF0FF, []⟩, ⟨33, 0xF033, 0xF0FF, []⟩, ⟨34, 0xF055, 0xF0FF, []⟩,
   ⟨35, 0xF065, 0xF0FF, []⟩]

/-- The row of R63 an instruction belongs to. -/
def Instr.row : Instr → Nat
  | .sys _ => 1
  | .cls => 2
  | .ret => 3
  | .jp _ => 4
  | .call _ => 5
  | .seImm _ _ => 6
  | .sneImm _ _ => 7
  | .seReg _ _ => 8
  | .ldImm _ _ => 9
  | .addImm _ _ => 10
  | .ldReg _ _ => 11
  | .orReg _ _ => 12
  | .andReg _ _ => 13
  | .xorReg _ _ => 14
  | .addReg _ _ => 15
  | .sub _ _ => 16
  | .shr _ _ => 17
  | .subn _ _ => 18
  | .shl _ _ => 19
  | .sneReg _ _ => 20
  | .ldI _ => 21
  | .jpV0 _ => 22
  | .rnd _ _ => 23
  | .drw _ _ _ => 24
  | .skp _ => 25
  | .sknp _ => 26
  | .ldVxDt _ => 27
  | .ldVxK _ => 28
  | .ldDtVx _ => 29
  | .ldStVx _ => 30
  | .addI _ => 31
  | .ldF _ => 32
  | .ldB _ => 33
  | .ldMemVx _ => 34
  | .ldVxMem _ => 35

end Sys2Proof
end

