-- ==== Sys2Proof/Config.lean ====
section
/-! DEFINITION. What is fixed for the machine: the sizes of R6, the parameter record of R7, the free random byte of R23, and the
free host of R186. The values of this hardware stand in Machine/Hardware.lean. -/

namespace Sys2Proof.Config

/-- Bytes of main memory (R6, R40). -/
def memSize : Nat := 4096

/-- Where the program image is placed and the first instruction stands (R6, R48). -/
def programBase : Nat := 0x200

/-- The largest program image, 4096 - 0x200 (R6, R182). -/
def maxImage : Nat := 3584

/-- Entries of the call stack (R6, R16). -/
def stackSize : Nat := 16

/-- Columns of the framebuffer (R6, R18). -/
def fbCols : Nat := 64

/-- Rows of the framebuffer (R6, R18). -/
def fbRows : Nat := 32

/-- `SYS_POLICY` (R7, R80, D2). -/
inductive SysPolicy
  | fault
  | nop
  deriving DecidableEq, Repr

/-- `VF_ORDER_ADDSUB` (R7, R113, D7). -/
inductive FlagOrder
  | flagLast
  | flagFirst
  deriving DecidableEq, Repr

/-- The named parameters of R7 but `rnd`, which is an input of each `TICK`. -/
structure Params where
  /-- `QUIRK_SHIFT_USES_VY` (R108, R110, D3). -/
  shiftUsesVY : Bool
  /-- `QUIRK_CALL_PUSH_PRE` (R81, R83, D4). -/
  callPushPre : Bool
  /-- `QUIRK_LOADSTORE_INC_I` (R124, R125, D5). -/
  loadStoreIncI : Bool
  /-- `QUIRK_LOGIC_RESETS_VF` (R103 to R105, D6). -/
  logicResetsVF : Bool
  /-- `VF_ORDER_ADDSUB` (R106, R107, R109, D7). -/
  vfOrderAddSub : FlagOrder
  /-- `QUIRK_DRAW_WRAP_START` (R131, D18). -/
  drawWrapStart : Bool
  /-- `SYS_POLICY` (R80, D2). -/
  sysPolicy : SysPolicy
  /-- `FONT_MASK_LOW_NIBBLE` (R122, D16). -/
  fontMaskLowNibble : Bool
  deriving DecidableEq, Repr

/-- The random byte of the `n`th `TICK` whose `rnd` argument is not given: a FREE VALUE, "a draw under no law" (R7, R23, D27, U6).
It has no body, so no proof can see a value of it. Safe, log 4. -/
opaque rndInput : Nat → Byte

/-- How many `TIMER_STEP`s a free host issues just before the `n`th `TICK`: a FREE VALUE, "any number ..., zero included" (R186, U13).
It has no body. Safe, log 20. -/
opaque timerSteps : Nat → Nat

/-- The last `SET_KEY` a free host issues just before the `n`th `TICK`, `none` when it issues none there: a FREE VALUE (R186, U13). It
has no body. Safe, log 20. -/
opaque keyCommand : Nat → Option (Option KeyCode)

end Sys2Proof.Config
end

