-- ==== Sys2Proof/Machine/Hardware.lean ====
section
/-! DEFINITION. The values of this hardware: the default column of R7 and the bytes of the glyph table of R49. -/

namespace Sys2Proof.Config

/-- The default column of R7: "the value of this hardware". -/
def Params.hardware : Params where
  shiftUsesVY := false
  callPushPre := false
  loadStoreIncI := false
  logicResetsVF := false
  vfOrderAddSub := .flagLast
  drawWrapStart := false
  sysPolicy := .fault
  fontMaskLowNibble := true

/-- The 80 bytes of the glyph table, digit 0 to digit F, five rows each (R49). PRESUMED by the spec (D29, G2: from general
knowledge); unsafe, log 8. -/
def glyphs : List Byte :=
  [0xF0, 0x90, 0x90, 0x90, 0xF0,
   0x20, 0x60, 0x20, 0x20, 0x70,
   0xF0, 0x10, 0xF0, 0x80, 0xF0,
   0xF0, 0x10, 0xF0, 0x10, 0xF0,
   0x90, 0x90, 0xF0, 0x10, 0x10,
   0xF0, 0x80, 0xF0, 0x10, 0xF0,
   0xF0, 0x80, 0xF0, 0x90, 0xF0,
   0xF0, 0x10, 0x20, 0x40, 0x40] ++
  [0xF0, 0x90, 0xF0, 0x90, 0xF0,
   0xF0, 0x90, 0xF0, 0x10, 0xF0,
   0xF0, 0x90, 0xF0, 0x90, 0x90,
   0xE0, 0x90, 0xE0, 0x90, 0xE0,
   0xF0, 0x80, 0x80, 0x80, 0xF0,
   0xE0, 0x90, 0x90, 0x90, 0xE0,
   0xF0, 0x80, 0xF0, 0x80, 0xF0,
   0xF0, 0x80, 0xF0, 0x80, 0x80]

end Sys2Proof.Config
end

