-- ==== Sys2Proof/Machine/State.lean ====
section
/-! DEFINITION. The machine's state as plain data (10_state.md R10 to R25), its state after reset, and the reasons a step can stop. -/

namespace Sys2Proof.Machine

/-- The five fault causes of R153. -/
inductive FaultCause
  /-- Code 1: an unrecognized word, or `SYS` under `SYS_POLICY = fault`. -/
  | decodeFault
  /-- Code 2: `CALL` with `SP = 16`. -/
  | stackOverflow
  /-- Code 3: `RET` with `SP = 0`. -/
  | stackUnderflow
  /-- Code 4: `DRW` with `N = 0`. -/
  | spriteLength
  /-- Code 5: an address of 4096 or more is used. -/
  | memOutOfRange
  deriving DecidableEq, Repr

/-- The engine status `STATUS`, which is also the outcome a tick reports (R20, R151). -/
inductive Status
  | normal
  | error (cause : FaultCause) (info : Word)
  | finished
  deriving DecidableEq, Repr

/-- Main memory (R17, R40) as a list of listed cells in the canonical form `Memory.wf` of Ops.lean; an address that is not listed
reads as `Memory.unlisted` says. -/
abbrev Memory := List Host.Cell

/-- The framebuffer, `FB[cy][cx]`: 32 rows of 64 pixels (R18). -/
abbrev Framebuffer := Vector (Vector Bool 64) 32

/-- The general registers `x[0]` to `x[15]` (R10). -/
abbrev Regs := Vector Byte 16

/-- The commands a host issues (R5). -/
inductive Command
  /-- `TICK(rnd)` (R150), the byte `none` when it is the free value (log 4). -/
  | tick (rnd : Option Byte)
  /-- `TIMER_STEP` (R147). -/
  | timerStep
  /-- `SET_KEY(k)`, "4 bits plus a valid bit" (R146). -/
  | setKey (k : Option KeyCode)
  /-- `FB_READ(cx, cy)` (R133). -/
  | fbRead (cx cy : Nat)
  /-- `DCH_READ` (R134). -/
  | dchRead
  /-- `LOAD(bytes)` (R182). -/
  | load (bytes : List Byte)
  /-- `RESET` (R180). -/
  | reset
  deriving DecidableEq, Repr

/-- What a command answers the host. -/
inductive Answer
  /-- `TICK`: its outcome (R151). -/
  | outcome (status : Status)
  /-- `FB_READ` inside the grid (R133). -/
  | pixel (on : Bool)
  /-- `FB_READ` outside the grid: "an answer to the host, not an engine fault" (R133). -/
  | outOfRange
  /-- `DCH_READ` (R134). -/
  | changed (dch : Bool)
  /-- A command that reports nothing (R146, R147, R180, R182). -/
  | done
  deriving DecidableEq, Repr

/-- All the machine holds. The fields from `regs` to `image` are the spec's (the list of R24 and R25); the last four are the
model's own. -/
structure State where
  /-- `x[0]` to `x[15]` (R10). -/
  regs : Regs
  /-- The program counter (R12). -/
  pc : Word
  /-- The address register `I` (R14). -/
  i : Word
  /-- The delay timer `DT` (R15). -/
  dt : Byte
  /-- The sound timer `ST` (R15). -/
  st : Byte
  /-- The valid entries of the call stack, the most recent first; `SP` is the length (R16, log 10). -/
  stack : List Word
  /-- Main memory (R17). -/
  mem : Memory
  /-- The framebuffer (R18). -/
  fb : Framebuffer
  /-- The keypad latch `KEY` (R19). -/
  key : Option KeyCode
  /-- `STATUS` (R20). -/
  status : Status
  /-- The display-changed flag `DCH` (R21). -/
  dch : Bool
  /-- The held program image `IMAGE` (R22). -/
  image : List Byte
  /-- MODEL: the parameter record a model takes as an argument (R7); nothing writes it (log 3). -/
  cfg : Config.Params
  /-- MODEL: the argument `rnd` of the `TICK` under way, `none` when it is the free value number `ticks` (R23, log 4). -/
  rnd : Option Byte
  /-- MODEL: how many `TICK`s have begun (log 4). -/
  ticks : Nat
  /-- MODEL: the host's commands issued and not yet carried out, oldest first; with none, the host is free (R5, R186, logs 5, 20). -/
  pending : List Command
  deriving DecidableEq, Repr

/-- Why the model stops where the hardware would go on: NOTHING. Every fault the spec names is a next state with `STATUS` in
`Error` (R156; log 6), so the model raises none and this type has no constructor. Safe. -/
inductive Fault
  deriving DecidableEq, Repr

/-- Why the model gives an instruction no meaning. -/
inductive Refusal
  /-- Raised only by an arm of `exec` for an instruction of the opcode table without a meaning; no arm is one. Safe. -/
  | notModelled (mnemonic : String)
  deriving DecidableEq, Repr

/-- What `exec`, `tick` and `step` answer. -/
abbrev Result := Host.Outcome State Fault Refusal

/-- The machine after power-on and its reset: "as if by `IMAGE <- empty`, `KEY <- None`, then `RESET`" (R181, R180, R25). The zeros
of the registers, `I`, the timers and the framebuffer and the empty stack are the spec's own decision D10, DESIGN CHOICE, unsafe, log 1;
`key` and `image` D11, log 2; the last four fields logs 3, 4, 5. -/
def State.reset : State where
  regs := Vector.replicate 16 0x00
  pc := 0x0200
  i := 0x0000
  dt := 0x00
  st := 0x00
  stack := []
  mem := []
  fb := Vector.replicate 32 (Vector.replicate 64 false)
  key := none
  status := .normal
  dch := false
  image := []
  cfg := Config.Params.hardware
  rnd := none
  ticks := 0
  pending := []

end Sys2Proof.Machine
end

