-- ==== Sys2Proof/Machine/Ops.lean ====
section
/-! DEFINITION. The named operations over the state: registers, program counter, call stack, memory, framebuffer, keypad, timers;
taking a fault and the way out of one. -/

namespace Sys2Proof.Machine

/-! ### Registers and the program counter -/

/-- `x[r]` (R8, R10). -/
def State.reg (s : State) (r : Reg) : Byte := s.regs[r]

/-- `x[r] <- v` (R8, R10): no register is hardwired. -/
def State.setReg (s : State) (r : Reg) (v : Byte) : State := { s with regs := s.regs.set r v }

/-- `pc <- target` (R8). -/
def State.setPc (s : State) (target : Word) : State := { s with pc := target }

/-- "advance": `pc <- pc + 2` (R8, R89). -/
def State.advance (s : State) : State := s.setPc (s.pc + 2)

/-- "skip": `pc <- pc + 4` (R8, R89). -/
def State.skip (s : State) : State := s.setPc (s.pc + 4)

/-- `pc <- pc + 4` when the condition holds, `pc <- pc + 2` when it does not (R89 b). -/
def State.skipIf (s : State) (condition : Bool) : State := if condition then s.skip else s.advance

/-- `I <- v` (R14). -/
def State.setI (s : State) (v : Word) : State := { s with i := v }

/-- `DT <- v` (R15). -/
def State.setDt (s : State) (v : Byte) : State := { s with dt := v }

/-- `ST <- v` (R15). -/
def State.setSt (s : State) (v : Byte) : State := { s with st := v }

/-- The memory as a whole. -/
def State.setMem (s : State) (m : Memory) : State := { s with mem := m }

/-- The framebuffer as a whole. -/
def State.setFb (s : State) (fb : Framebuffer) : State := { s with fb := fb }

/-- `DCH <- b` (R21). -/
def State.setDch (s : State) (b : Bool) : State := { s with dch := b }

/-- The call stack as a whole. -/
def State.setStack (s : State) (entries : List Word) : State := { s with stack := entries }

/-- `x[k], x[k + 1], ... <- bytes`, rising (R125). -/
def loadRegs (regs : Regs) (k : Nat) : List Byte → Regs
  | [] => regs
  | b :: bs => loadRegs (regs.setIfInBounds k b) (k + 1) bs

/-- The bulk load of `bytes` into `x[0], x[1], ...` (R125). -/
def State.setRegsFrom0 (s : State) (bytes : List Byte) : State := { s with regs := loadRegs s.regs 0 bytes }

/-! ### Outcome and cause numbers, and taking a fault -/

/-- The number of an outcome, "for a model that wants numbers" (R151, D14). -/
def Status.code : Status → Nat
  | .normal => 0
  | .error _ _ => 1
  | .finished => 2

/-- The code of a fault cause (R153, D14). -/
def FaultCause.code : FaultCause → Nat
  | .decodeFault => 1
  | .stackOverflow => 2
  | .stackUnderflow => 3
  | .spriteLength => 4
  | .memOutOfRange => 5

/-- `raise F(info)`: "`STATUS <- Error(F, info)`; `DCH <- 0`. ... Nothing else is saved and nothing else changes" (R156). There is no
return from it (R159): the way out is `resetMachine` and `loadImage` below. -/
def raise (cause : FaultCause) (info : Word) (s : State) : Result :=
  .next { s with status := .error cause info, dch := false }

/-! ### The call stack -/

/-- `SP`, "the number of valid entries" (R16). -/
def State.sp (s : State) : Nat := s.stack.length

/-- `stack[k]` for `k < SP`, counted from the oldest entry (R16). -/
def State.stackSlot (s : State) (k : Nat) : Option Word := s.stack.reverse[k]?

/-- `push(addr) -> Overflow?`: "fails without mutating state when depth is already 16" (R83). -/
def push (stack : List Word) (addr : Word) : Option (List Word) :=
  if Config.stackSize ≤ stack.length then none else some (addr :: stack)

/-- `pop() -> addr | Underflow`: "fails when empty" (R81). -/
def pop : List Word → Option (Word × List Word)
  | [] => none
  | top :: rest => some (top, rest)

/-! ### Main memory -/

/-- What an address that is not listed reads as: the contents reset gives it, the glyph table at 0x000 to 0x04F and zero above
(R25, R48, R49; log 7). A loaded image is listed. -/
def Memory.unlisted (a : Nat) : Byte := Config.glyphs.getD a 0x00

/-- `mem[a]`. -/
def Memory.read : Memory → Nat → Byte
  | [], a => Memory.unlisted a
  | (k, b) :: rest, a => if a = k then b else Memory.read rest a

/-- `mem[a] <- v`, keeping the canonical form. -/
def Memory.write : Memory → Nat → Byte → Memory
  | [], a, v => if v = Memory.unlisted a then [] else [(a, v)]
  | (k, b) :: rest, a, v =>
    if a < k then (if v = Memory.unlisted a then (k, b) :: rest else (a, v) :: (k, b) :: rest)
    else if a = k then (if v = Memory.unlisted a then rest else (a, v) :: rest)
    else (k, b) :: Memory.write rest a v

/-- The bytes stored at `a, a + 1, ...`, rising. -/
def Memory.writeBytes (m : Memory) (a : Nat) : List Byte → Memory
  | [] => m
  | b :: bs => Memory.writeBytes (m.write a b) (a + 1) bs

/-- The canonical form from address `lo` on. -/
def Memory.wfFrom (lo : Nat) : Memory → Bool
  | [] => true
  | (k, b) :: rest => decide (lo ≤ k) && decide (k < Config.memSize) && decide (b ≠ Memory.unlisted k) && Memory.wfFrom (k + 1) rest

/-- The canonical form: addresses strictly rising and below 4096, no entry equal to what an unlisted address reads as. -/
def Memory.wf (m : Memory) : Bool := Memory.wfFrom 0 m

/-- The first out-of-range address of a run that starts at `addr`: `max(addr, 4096)` (R45 to R47, D15). -/
def firstOutOfRange (addr : Nat) : Word := BitVec.ofNat 16 (max addr Config.memSize)

/-- `MemRead(addr, 1)` (R44); the error is the out-of-range address. -/
def memRead1 (m : Memory) (addr : Nat) : Except Word Byte :=
  if Config.memSize ≤ addr then .error (BitVec.ofNat 16 addr) else .ok (m.read addr)

/-- `MemRead(addr, 2)`, big-endian, without alignment (R43, R45, R50). -/
def memRead2 (m : Memory) (addr : Nat) : Except Word Word :=
  if Config.memSize ≤ addr + 1 then .error (firstOutOfRange addr)
  else .ok (wordOfBytes (m.read addr) (m.read (addr + 1)))

/-- The bytes `mem[addr], ..., mem[addr + len - 1]`. -/
def Memory.readBytes (m : Memory) (addr : Nat) : Nat → List Byte
  | 0 => []
  | len + 1 => m.read addr :: Memory.readBytes m (addr + 1) len

/-- `MemReadSeg(addr, len)`: "fails atomically if any byte in the run is out of range" (R46). -/
def memReadSeg (m : Memory) (addr len : Nat) : Except Word (List Byte) :=
  if Config.memSize ≤ addr + len - 1 then .error (firstOutOfRange addr) else .ok (m.readBytes addr len)

/-- `MemWrite(addr, 1, v)` (R47). -/
def memWrite1 (m : Memory) (addr : Nat) (v : Byte) : Except Word Memory :=
  if Config.memSize ≤ addr then .error (BitVec.ofNat 16 addr) else .ok (m.write addr v)

/-- A run of `MemWrite`s: "test the whole run before the first write, so that a faulting instruction writes nothing"
(R47, R123, R124, D15; log 9). -/
def memWriteSeg (m : Memory) (addr : Nat) (bytes : List Byte) : Except Word Memory :=
  if Config.memSize ≤ addr + bytes.length - 1 then .error (firstOutOfRange addr) else .ok (m.writeBytes addr bytes)

/-! ### The framebuffer and the sprite-blit composer -/

/-- Every pixel off. -/
def Framebuffer.blank : Framebuffer := Vector.replicate 32 (Vector.replicate 64 false)

/-- `FB[cy][cx]`; outside the grid there is no pixel, and this reads off. -/
def Framebuffer.pixel (fb : Framebuffer) (cx cy : Nat) : Bool :=
  match fb[cy]? with
  | some row => row[cx]?.getD false
  | none => false

/-- `FB[cy][cx] <- FB[cy][cx] ^ 1`; nothing outside the grid. -/
def Framebuffer.toggle (fb : Framebuffer) (cx cy : Nat) : Framebuffer :=
  match fb[cy]? with
  | some row => fb.setIfInBounds cy (row.setIfInBounds cx (!fb.pixel cx cy))
  | none => fb

/-- What a blit has made so far: the framebuffer, and whether a collision happened. -/
abbrev Blit := Framebuffer × Bool

/-- One set bit of a sprite at target `(cx, cy)`: skipped outside the grid, else toggled, with a collision when the pixel was on
(R132). -/
def plot (acc : Blit) (cx cy : Nat) : Blit :=
  if cx < Config.fbCols ∧ cy < Config.fbRows then (acc.1.toggle cx cy, acc.2 || acc.1.pixel cx cy) else acc

/-- One row of a sprite: its 8 bits from the left, "most-significant bit first" (R132). -/
def blitRow (acc : Blit) (row : Byte) (ox cy : Nat) : Blit :=
  (List.range 8).foldl (fun acc j => if row.getLsbD (7 - j) then plot acc (ox + j) cy else acc) acc

/-- The rows of a sprite from the top, the first at row `cy` (R132). -/
def blitRows (acc : Blit) : List Byte → Nat → Nat → Blit
  | [], _, _ => acc
  | row :: rows, ox, cy => blitRows (blitRow acc row ox cy) rows ox (cy + 1)

/-- `Blit(rows, ox, oy)` (R132): the new framebuffer and `coll`. -/
def blit (fb : Framebuffer) (rows : List Byte) (ox oy : Nat) : Blit := blitRows (fb, false) rows ox oy

/-! ### The keypad queries -/

/-- `is_pressed(c)`: "true exactly when `KEY` is a code and `KEY = c`", on all 8 bits of `c` (R148, D20). -/
def isPressed (key : Option KeyCode) (c : Byte) : Bool :=
  match key with
  | none => false
  | some k => k.toNat == c.toNat

/-- `is_released(c)`: "true if nothing held or a different code is held" (R148). -/
def isReleased (key : Option KeyCode) (c : Byte) : Bool :=
  match key with
  | none => true
  | some k => k.toNat != c.toNat

/-! ### The random byte -/

/-- `rnd` of the `TICK` under way: the host's byte where a queued command gives it, else a free value (R23, R111, D27; log 4). -/
def State.rndByte (s : State) : Byte :=
  match s.rnd with
  | some r => r
  | none => Config.rndInput s.ticks

/-- The start of a `TICK` with argument `r`: `DCH` is cleared (R21, D19; log 14) and the argument is presented to the engine. -/
def State.beginTick (s : State) (r : Option Byte) : State := { s with dch := false, rnd := r, ticks := s.ticks + 1 }

/-! ### The other host commands on the state -/

/-- One timer's countdown: "if greater than 0 then minus 1, else stays 0" (R147, D21). -/
def countDown (t : Byte) : Byte := if t = 0 then 0 else t - 1

/-- `TIMER_STEP` (R147). -/
def timerStep (s : State) : State := { s with dt := countDown s.dt, st := countDown s.st }

/-- `SET_KEY(k)` (R146). -/
def setKey (k : Option KeyCode) (s : State) : State := { s with key := k }

/-- One timer after `n` countdowns (R147); a timer at 0 "stays 0". -/
def countDownBy (n : Nat) (t : Byte) : Byte := if t = 0 then 0 else BitVec.ofNat 8 (t.toNat - n)

/-- What `TIMER_STEP` and `SET_KEY` commands between two ticks come to (R186), whatever their order: `n` timer steps, and the last key
set, if any is. -/
def betweenTicks (n : Nat) (k : Option (Option KeyCode)) (s : State) : State :=
  { s with dt := countDownBy n s.dt, st := countDownBy n s.st, key := k.getD s.key }

/-- What a free host does before its next `TICK` (R186, log 20). -/
def State.freeHost (s : State) : State := betweenTicks (Config.timerSteps s.ticks) (Config.keyCommand s.ticks) s

/-- The cells of an image placed from `addr` on, in the canonical form: bytes equal to what the address reads as unlisted are left
out. -/
def imageCells (addr : Nat) : List Byte → Memory
  | [] => []
  | b :: bs => if b = Memory.unlisted addr then imageCells (addr + 1) bs else (addr, b) :: imageCells (addr + 1) bs

/-- Memory after reset: zero, the glyph table over it, the image over that from 0x200 (R25, R48, R180). -/
def resetMemory (image : List Byte) : Memory := imageCells Config.programBase image

/-- `RESET` (R180): all four containers, `pc`, `STATUS` and `DCH`; `KEY` and `IMAGE` unchanged (D12; log 2). -/
def resetMachine (s : State) : State :=
  { s with
    mem := resetMemory s.image
    regs := Vector.replicate 16 0x00
    i := 0x0000
    dt := 0x00
    st := 0x00
    stack := []
    fb := Framebuffer.blank
    pc := BitVec.ofNat 16 Config.programBase
    status := .normal
    dch := false }

/-- `LOAD(bytes)`: the image is the first 3584 bytes, "the rest is dropped"; then `RESET` (R182). -/
def loadImage (bytes : List Byte) (s : State) : State :=
  resetMachine { s with image := bytes.take Config.maxImage }

/-- `FB_READ(cx, cy)`: the pixel, or nothing for `OutOfRange` (R133). -/
def fbRead (s : State) (cx cy : Nat) : Option Bool :=
  if cx < Config.fbCols ∧ cy < Config.fbRows then some (s.fb.pixel cx cy) else none

end Sys2Proof.Machine
end

