-- ==== Sys2Proof/Machine/Flags.lean ====
section
/-! DEFINITION. The flag values of R112 and the order in which a result and its flag are written (R113). `VF` is the only flag. -/

namespace Sys2Proof.Machine

/-- "The flag value is written as the 8-bit number 0x00 or 0x01" (R112). -/
def flagByte (f : Bool) : Byte := if f then 0x01 else 0x00

/-- "1 iff the unwrapped sum exceeded 255" (R112 a). -/
def carry (a b : Byte) : Bool := decide (255 < a.toNat + b.toNat)

/-- "1 iff no borrow occurred (minuend ≥ subtrahend)" (R112 b). -/
def noBorrow (a b : Byte) : Bool := decide (b.toNat ≤ a.toNat)

/-- The bit a right shift loses, `a[0]` (R112 c). -/
def lostRight (a : Byte) : Bool := a.getLsbD 0

/-- The bit a left shift loses, `a[7]` (R112 c). -/
def lostLeft (a : Byte) : Bool := a.getLsbD 7

/-- `x[0xF] <- f` (R11). -/
def State.setVF (s : State) (f : Bool) : State := s.setReg VF (flagByte f)

/-- The two writes of ADD, SUB and SUBN, in the order of `VF_ORDER_ADDSUB` (R106, R107, R109, R113, D7). -/
def writeResultFlag (x : Reg) (result : Byte) (flag : Bool) (s : State) : State :=
  match s.cfg.vfOrderAddSub with
  | .flagLast => (s.setReg x result).setVF flag
  | .flagFirst => (s.setVF flag).setReg x result

/-- The two writes of the shifts: the flag "before overwriting the destination register" (R108, R110, R113). -/
def writeShift (x : Reg) (result : Byte) (flag : Bool) (s : State) : State := (s.setVF flag).setReg x result

/-- The writes of OR, AND and XOR: the result, then `VF <- 0` only under `QUIRK_LOGIC_RESETS_VF` (R103 to R105, D6). -/
def writeLogic (x : Reg) (result : Byte) (s : State) : State :=
  if s.cfg.logicResetsVF then (s.setReg x result).setReg VF 0x00 else s.setReg x result

end Sys2Proof.Machine
end

