-- ==== Sys2Proof/Machine/Operands.lean ====
section
/-! DEFINITION. Every operand form of the instruction set: immediates (R69), the shift operand (R108, R110), the effective address
`I + k` (R126), the register list of the bulk transfers (R124, R125), the glyph digit (R122), the decimal digits (R123), the sprite's
origin (R131). -/

namespace Sys2Proof.Machine

/-- `zext_16(NNN)`: "zero-extended to 16 bits when it is written to `pc` or `I`" (R69). -/
def zext16 (nnn : Addr12) : Word := BitVec.ofNat 16 nnn.toNat

/-- `zext_16` of a byte (R8, R88, R121). -/
def zext16Byte (b : Byte) : Word := BitVec.ofNat 16 b.toNat

/-- `zext_8(KEY)` of a code (R142). -/
def zext8 (k : KeyCode) : Byte := BitVec.ofNat 8 k.toNat

/-- The value a shift shifts: `x[X]`, or `x[Y]` under `QUIRK_SHIFT_USES_VY` (R108, R110, D3). -/
def shiftOperand (x y : Reg) (s : State) : Byte := if s.cfg.shiftUsesVY then s.reg y else s.reg x

/-- The first byte of a data access: `I`, "over the integers from the full 16-bit `I`" (R126). -/
def dataAddress (s : State) : Nat := s.i.toNat

/-- `x[0]` to `x[X]`, the bytes `LD [I], VX` stores (R124). -/
def regList (x : Reg) (s : State) : List Byte := s.regs.toList.take (x.val + 1)

/-- `I` after a bulk transfer that did not fault: unchanged, or `(I + X + 1) mod 65536` under `QUIRK_LOADSTORE_INC_I`
(R124, R125, D5). -/
def bulkNextI (x : Reg) (s : State) : Word := if s.cfg.loadStoreIncI then s.i + BitVec.ofNat 16 (x.val + 1) else s.i

/-- `I <- 5 * d` with `d` the low nibble of `x[X]`, or all of it without `FONT_MASK_LOW_NIBBLE` (R122, D16). -/
def glyphAddress (v : Byte) (s : State) : Word :=
  BitVec.ofNat 16 (5 * (if s.cfg.fontMaskLowNibble then v.toNat % 16 else v.toNat))

/-- Hundreds, tens and ones of a byte, each a whole byte (R123). -/
def bcdDigits (v : Byte) : List Byte :=
  [BitVec.ofNat 8 (v.toNat / 100), BitVec.ofNat 8 (v.toNat / 10 % 10), BitVec.ofNat 8 (v.toNat % 10)]

/-- The origin column of a sprite: `x[X]` as is, or modulo 64 under `QUIRK_DRAW_WRAP_START` (R131, D18). -/
def spriteColumn (x : Reg) (s : State) : Nat := if s.cfg.drawWrapStart then (s.reg x).toNat % 64 else (s.reg x).toNat

/-- The origin row of a sprite: `x[Y]` as is, or modulo 32 under `QUIRK_DRAW_WRAP_START` (R131, D18). -/
def spriteRow (y : Reg) (s : State) : Nat := if s.cfg.drawWrapStart then (s.reg y).toNat % 32 else (s.reg y).toNat

end Sys2Proof.Machine
end

