-- ==== Sys2Proof/Machine/Alu.lean ====
section
/-! DEFINITION. Register load, arithmetic, logic, shift and random (41_alu.md). Operands are read before anything is written (R113). -/

namespace Sys2Proof.Machine

/-- `LD VX, NN` (R100). -/
def execLdImm (x : Reg) (nn : Byte) (s : State) : Result := .next (s.setReg x nn).advance

/-- `ADD VX, NN` (R101): `VF` is not written as a flag. -/
def execAddImm (x : Reg) (nn : Byte) (s : State) : Result := .next (s.setReg x (s.reg x + nn)).advance

/-- `LD VX, VY` (R102). -/
def execLdReg (x y : Reg) (s : State) : Result := .next (s.setReg x (s.reg y)).advance

/-- `OR VX, VY` (R103). -/
def execOr (x y : Reg) (s : State) : Result := .next (writeLogic x (s.reg x ||| s.reg y) s).advance

/-- `AND VX, VY` (R104). -/
def execAnd (x y : Reg) (s : State) : Result := .next (writeLogic x (s.reg x &&& s.reg y) s).advance

/-- `XOR VX, VY` (R105). -/
def execXor (x y : Reg) (s : State) : Result := .next (writeLogic x (s.reg x ^^^ s.reg y) s).advance

/-- `ADD VX, VY` (R106). -/
def execAddReg (x y : Reg) (s : State) : Result :=
  .next (writeResultFlag x (s.reg x + s.reg y) (carry (s.reg x) (s.reg y)) s).advance

/-- `SUB VX, VY` (R107): the minuend is `x[X]`. -/
def execSub (x y : Reg) (s : State) : Result :=
  .next (writeResultFlag x (s.reg x - s.reg y) (noBorrow (s.reg x) (s.reg y)) s).advance

/-- `SHR VX, VY` (R108). -/
def execShr (x y : Reg) (s : State) : Result :=
  .next (writeShift x (shiftOperand x y s >>> 1) (lostRight (shiftOperand x y s)) s).advance

/-- `SUBN VX, VY` (R109): the minuend is `x[Y]`. -/
def execSubn (x y : Reg) (s : State) : Result :=
  .next (writeResultFlag x (s.reg y - s.reg x) (noBorrow (s.reg y) (s.reg x)) s).advance

/-- `SHL VX, VY` (R110). -/
def execShl (x y : Reg) (s : State) : Result :=
  .next (writeShift x (shiftOperand x y s <<< 1) (lostLeft (shiftOperand x y s)) s).advance

/-- `RND VX, NN` (R111): the tick's `rnd`, ANDed with the mask. -/
def execRnd (x : Reg) (nn : Byte) (s : State) : Result := .next (s.setReg x (s.rndByte &&& nn)).advance

end Sys2Proof.Machine
end

