-- ==== Sys2Proof/Machine/Display.lean ====
section
/-! DEFINITION. The display instructions of 43_display.md. -/

namespace Sys2Proof.Machine

/-- `CLS` (R130). -/
def execCls (s : State) : Result := .next ((s.setFb Framebuffer.blank).setDch true).advance

/-- `DRW VX, VY, N` (R131): the sprite length is tested first (D32), the origin is read before `VF` is written. -/
def execDrw (x y : Reg) (n : Fin 16) (s : State) : Result :=
  if n = 0 then raise .spriteLength (encode (.drw x y n)) s
  else match memReadSeg s.mem (dataAddress s) n.val with
  | .error a => raise .memOutOfRange a s
  | .ok rows =>
    let drawn := blit s.fb rows (spriteColumn x s) (spriteRow y s)
    .next (((s.setFb drawn.1).setVF drawn.2).setDch true).advance

end Sys2Proof.Machine
end

