-- ==== Sys2Proof/Machine/Flow.lean ====
section
/-! DEFINITION. The control transfer instructions of 40_flow.md. -/

namespace Sys2Proof.Machine

/-- `SYS NNN` (R80): `DecodeFault(instr)`, or only `pc <- pc + 2` under `SYS_POLICY = nop`. -/
def execSys (nnn : Addr12) (s : State) : Result :=
  match s.cfg.sysPolicy with
  | .fault => raise .decodeFault (encode (.sys nnn)) s
  | .nop => .next s.advance

/-- `RET` (R81): the popped address, plus 2 under `QUIRK_CALL_PUSH_PRE`. -/
def execRet (s : State) : Result :=
  match pop s.stack with
  | none => raise .stackUnderflow (encode .ret) s
  | some (t, rest) => .next ((s.setStack rest).setPc (if s.cfg.callPushPre then t + 2 else t))

/-- `JP NNN` (R82). -/
def execJp (nnn : Addr12) (s : State) : Result := .next (s.setPc (zext16 nnn))

/-- What `CALL` pushes: the address of the next instruction, or its own under `QUIRK_CALL_PUSH_PRE` (R83, D4). -/
def returnAddress (s : State) : Word := if s.cfg.callPushPre then s.pc else s.pc + 2

/-- `CALL NNN` (R83). -/
def execCall (nnn : Addr12) (s : State) : Result :=
  match push s.stack (returnAddress s) with
  | none => raise .stackOverflow (encode (.call nnn)) s
  | some entries => .next ((s.setStack entries).setPc (zext16 nnn))

/-- `SE VX, NN` (R84). -/
def execSeImm (x : Reg) (nn : Byte) (s : State) : Result := .next (s.skipIf (s.reg x == nn))

/-- `SNE VX, NN` (R85). -/
def execSneImm (x : Reg) (nn : Byte) (s : State) : Result := .next (s.skipIf (s.reg x != nn))

/-- `SE VX, VY` (R86). -/
def execSeReg (x y : Reg) (s : State) : Result := .next (s.skipIf (s.reg x == s.reg y))

/-- `SNE VX, VY` (R87). -/
def execSneReg (x y : Reg) (s : State) : Result := .next (s.skipIf (s.reg x != s.reg y))

/-- `JP V0, NNN` (R88, D23): no masking to 12 bits. -/
def execJpV0 (nnn : Addr12) (s : State) : Result := .next (s.setPc (zext16 nnn + zext16Byte (s.reg 0)))

end Sys2Proof.Machine
end

