-- ==== Sys2Proof/Machine/IndexMemory.lean ====
section
/-! DEFINITION. The address-register and memory instructions of 42_index_memory.md. -/

namespace Sys2Proof.Machine

/-- `LD I, NNN` (R120). -/
def execLdI (nnn : Addr12) (s : State) : Result := .next (s.setI (zext16 nnn)).advance

/-- `ADD I, VX` (R121, D17): modulo 65536, no flag. -/
def execAddI (x : Reg) (s : State) : Result := .next (s.setI (s.i + zext16Byte (s.reg x))).advance

/-- `LD F, VX` (R122, D16). -/
def execLdF (x : Reg) (s : State) : Result := .next (s.setI (glyphAddress (s.reg x) s)).advance

/-- `LD B, VX` (R123): three decimal digits at `I`. -/
def execLdB (x : Reg) (s : State) : Result :=
  match memWriteSeg s.mem (dataAddress s) (bcdDigits (s.reg x)) with
  | .error a => raise .memOutOfRange a s
  | .ok m => .next (s.setMem m).advance

/-- `LD [I], VX` (R124): `x[0]` to `x[X]` at `I`. -/
def execLdMemVx (x : Reg) (s : State) : Result :=
  match memWriteSeg s.mem (dataAddress s) (regList x s) with
  | .error a => raise .memOutOfRange a s
  | .ok m => .next ((s.setMem m).setI (bulkNextI x s)).advance

/-- `LD VX, [I]` (R125): `x[0]` to `x[X]` from `I`. -/
def execLdVxMem (x : Reg) (s : State) : Result :=
  match memReadSeg s.mem (dataAddress s) (x.val + 1) with
  | .error a => raise .memOutOfRange a s
  | .ok bytes => .next ((s.setRegsFrom0 bytes).setI (bulkNextI x s)).advance

end Sys2Proof.Machine
end

