-- ==== Sys2Proof/Machine/KeypadTimers.lean ====
section
/-! DEFINITION. The keypad and timer instructions of 44_keypad_timers.md. -/

namespace Sys2Proof.Machine

/-- `SKP VX` (R140). -/
def execSkp (x : Reg) (s : State) : Result := .next (s.skipIf (isPressed s.key (s.reg x)))

/-- `SKNP VX` (R141). -/
def execSknp (x : Reg) (s : State) : Result := .next (s.skipIf (isReleased s.key (s.reg x)))

/-- `LD VX, K` (R142, D24): with no key held nothing changes and the tick still returns `Normal`. -/
def execLdVxK (x : Reg) (s : State) : Result :=
  match s.key with
  | none => .next s
  | some k => .next (s.setReg x (zext8 k)).advance

/-- `LD VX, DT` (R143). -/
def execLdVxDt (x : Reg) (s : State) : Result := .next (s.setReg x s.dt).advance

/-- `LD DT, VX` (R144). -/
def execLdDtVx (x : Reg) (s : State) : Result := .next (s.setDt (s.reg x)).advance

/-- `LD ST, VX` (R145). -/
def execLdStVx (x : Reg) (s : State) : Result := .next (s.setSt (s.reg x)).advance

end Sys2Proof.Machine
end

