-- ==== Sys2Proof/Machine/Tick.lean ====
section
/-! DEFINITION. The tick protocol (R150) and the carrying out of the host's commands (R5). -/

namespace Sys2Proof.Machine

/-- Step 2 of a tick: "Fetch the 16-bit instruction at the program counter" (R43, R45, R150). -/
def fetch (s : State) : Except Word Word := memRead2 s.mem s.pc.toNat

/-- Steps 2 to 6 of a tick: fetch, decode, execute, each fault taken as R156 says, in the order of R155. -/
def fetchAndExecute (s : State) : Result :=
  match fetch s with
  | .error a => raise .memOutOfRange a s
  | .ok w =>
    match decode w with
    | .error _ => raise .decodeFault w s
    | .ok i => exec i s

/-- `TICK(rnd)` (R150); `r` is the host's byte, or `none` for a free one (log 4). Step 0: a terminal `STATUS` is sticky (R158, D13).
Step 1: `pc >= 4096` is `Finished` (R160). -/
def tick (r : Option Byte) (s : State) : Result :=
  match s.status with
  | .error _ _ => .next (s.beginTick r)
  | .finished => .next (s.beginTick r)
  | .normal =>
    if Config.memSize ≤ s.pc.toNat then .next { s.beginTick r with status := .finished }
    else fetchAndExecute (s.beginTick r)

/-- One host command, an atomic transition of the state (R5, R54, D22). The two reads "never change state" (R133, R134). -/
def perform (c : Command) (s : State) : Result :=
  match c with
  | .tick r => tick r s
  | .timerStep => .next (timerStep s)
  | .setKey k => .next (setKey k s)
  | .fbRead _ _ => .next s
  | .dchRead => .next s
  | .load bytes => .next (loadImage bytes s)
  | .reset => .next (resetMachine s)

/-- What a command issued in state `s` answers the host: "The outcome is both the return value of `TICK` and the new value of
`STATUS`" (R151); R133, R134; the others report nothing. -/
def answer (c : Command) (s : State) : Answer :=
  match c with
  | .tick r =>
    match tick r s with
    | .next t => .outcome t.status
    | _ => .done
  | .fbRead cx cy =>
    match fbRead s cx cy with
    | some on => .pixel on
    | none => .outOfRange
  | .dchRead => .changed s.dch
  | .timerStep => .done
  | .setKey _ => .done
  | .load _ => .done
  | .reset => .done

/-- One step: the oldest command of the host that is not yet carried out (log 5); with none issued the host is free, so that what it
does before the tick is free too (R186, log 20), and then a `TICK` with a free byte. -/
def nextCommand (s : State) : Result :=
  match s.pending with
  | [] => tick none s.freeHost
  | c :: cs => perform c { s with pending := cs }

/-- The address the next tick fetches from once `STATUS` is `Normal`: `pc` where a word can be fetched there, else the program
base. -/
def fetchAddress (s : State) : Nat := if s.pc.toNat + 1 < Config.memSize then s.pc.toNat else Config.programBase

/-- The two bytes of a word stored big-endian where the next step fetches, that step made a tick in `STATUS` `Normal` (log 11)
with nothing of the host's before it. -/
def placeWord (s : State) (w : Word) : State :=
  { s with
    mem := s.mem.writeBytes (fetchAddress s) [hiByte w, loByte w]
    pc := BitVec.ofNat 16 (fetchAddress s)
    status := .normal
    pending := [.tick none] }

end Sys2Proof.Machine
end

