-- ==== Sys2Proof/Machine/Step.lean ====
section
/-! DEFINITION. One step of the machine. -/

namespace Sys2Proof.Machine

/-- One step carries out one command of the host (R5); with none issued it is what a free host does before a `TICK`, and
the `TICK` (R150, R186). -/
def step (s : State) : Host.Outcome State Fault Refusal := nextCommand s

/-- `s` with the instruction whose bits the opcode table numbers as `w` stored where the next step fetches it, a `TICK` alone
queued and `STATUS` `Normal`; it stands for the host's `LOAD` (log 11). -/
def State.withFetchWord (s : State) (nbits w : Nat) : State := placeWord s (BitVec.ofNat 16 (w % 2 ^ nbits))

end Sys2Proof.Machine
end

