-- ==== Sys2Proof/Safety.lean ====
section
/-! DEFINITION. The terms claims about the machine are stated in: the invariant of every reachable state, frames, and the functional
reading of the program-counter rule and of the sprite composer. -/

namespace Sys2Proof.Machine

/-! ### The invariant -/

/-- The greatest address `CALL` can have pushed: `pc + 2` with `pc <= 4094`, or `pc` itself under `QUIRK_CALL_PUSH_PRE` (R13). -/
def maxReturnAddress (s : State) : Nat := if s.cfg.callPushPre then 4094 else 4096

/-- What holds in every reachable state. -/
structure State.Inv (s : State) : Prop where
  /-- Memory is in its canonical form, all of it below 4096 (R40, R42). -/
  memory : s.mem.wf = true
  /-- "So `0 <= pc <= 4350` always holds" (R13). -/
  pcBound : s.pc.toNat ≤ 4350
  /-- "Invariant: depth never exceeds 16" (R16). -/
  stackDepth : s.sp ≤ 16
  /-- What a return can go to (R13). -/
  returnAddresses : ∀ a ∈ s.stack, a.toNat ≤ maxReturnAddress s
  /-- `0 <= L <= 3584` (R22). -/
  imageLength : s.image.length ≤ 3584
  /-- `Finished` is reported by a tick that found `pc >= 4096` (R160), and nothing but reset leaves it (R159). -/
  finished : s.status = .finished → 4096 ≤ s.pc.toNat
  /-- The info of a memory fault is an out-of-range address (R153). -/
  memoryInfo : ∀ info, s.status = .error .memOutOfRange info → 4096 ≤ info.toNat
  /-- The info of every other fault is the instruction word, which still stands at `pc` (R153, R157). -/
  wordInfo : ∀ cause info, s.status = .error cause info → cause ≠ .memOutOfRange → fetch s = .ok info

/-! ### Frames -/

/-- Every byte of memory reads as before. -/
def State.MemorySame (s t : State) : Prop := ∀ a, t.mem.read a = s.mem.read a

/-- Every byte outside the `len` bytes from `addr` on reads as before. -/
def State.MemorySameOutside (s t : State) (addr len : Nat) : Prop :=
  ∀ a, ¬ (addr ≤ a ∧ a < addr + len) → t.mem.read a = s.mem.read a

/-- The fault entry of R156, written out. -/
def State.faulted (s : State) (cause : FaultCause) (info : Word) : State :=
  { s with status := .error cause info, dch := false }

/-! ### The program counter after an instruction that did not fault -/

/-- R89 (a) to (d), with the targets and conditions of the instruction rules R81 to R88 and R140 to R142. -/
def pcAfter (i : Instr) (s : State) : Word :=
  match i with
  | .ret => if s.cfg.callPushPre then s.stack.headD 0 + 2 else s.stack.headD 0
  | .jp nnn => nnn.setWidth 16
  | .call nnn => nnn.setWidth 16
  | .jpV0 nnn => nnn.setWidth 16 + (s.reg 0).setWidth 16
  | .seImm x nn => if s.reg x = nn then s.pc + 4 else s.pc + 2
  | .sneImm x nn => if s.reg x ≠ nn then s.pc + 4 else s.pc + 2
  | .seReg x y => if s.reg x = s.reg y then s.pc + 4 else s.pc + 2
  | .sneReg x y => if s.reg x ≠ s.reg y then s.pc + 4 else s.pc + 2
  | .skp x => if s.key.map BitVec.toNat = some (s.reg x).toNat then s.pc + 4 else s.pc + 2
  | .sknp x => if s.key.map BitVec.toNat = some (s.reg x).toNat then s.pc + 2 else s.pc + 4
  | .ldVxK _ => if s.key = none then s.pc else s.pc + 2
  | _ => s.pc + 2

/-! ### The sprite composer, pixel by pixel -/

/-- Whether the sprite `rows` with origin `(ox, oy)` has a set bit whose target is `(cx, cy)`: row `cy - oy`, bit `7 - (cx - ox)`
(R132). -/
def spriteBit (rows : List Byte) (ox oy cx cy : Nat) : Bool :=
  decide (ox ≤ cx) && decide (cx < ox + 8) && decide (oy ≤ cy) && ((rows[cy - oy]?).getD 0).getLsbD (7 - (cx - ox))

/-- The bytes of a data access of length `len`, by address (R126). -/
def bytesAt (m : Memory) (addr len : Nat) : List Byte := (List.range len).map fun k => m.read (addr + k)

/-! ### The glyph table -/

/-- The 16 glyphs as the table of R49 prints them, one number per digit, its five bytes from the top row down. PRESUMED by the spec
(D29: general knowledge), log 8. Written apart from `Config.glyphs`, so that the two can be held against each other. -/
def fontRows : List (BitVec 40) :=
  [0xF0909090F0, 0x2060202070, 0xF010F080F0, 0xF010F010F0, 0x9090F01010, 0xF080F010F0, 0xF080F090F0, 0xF010204040] ++
  [0xF090F090F0, 0xF090F010F0, 0xF090F09090, 0xE090E090E0, 0xF0808080F0, 0xE0909090E0, 0xF080F080F0, 0xF080F08080]

/-- Row `row` of the glyph of digit `digit`; R49 puts it at the address `5 * digit + row`. -/
def fontByte (digit row : Nat) : Byte := ((fontRows.getD digit 0) >>> (8 * (4 - row))).setWidth 8

/-! ### Reserved words -/

/-- "The unrecognized words are exactly" these (R65). -/
def reservedWord (w : Word) : Prop :=
  (w &&& 0xF000 = 0x5000 ∧ w &&& 0x000F ≠ 0) ∨
  (w &&& 0xF000 = 0x9000 ∧ w &&& 0x000F ≠ 0) ∨
  (w &&& 0xF000 = 0x8000 ∧ w &&& 0x000F ∈ ([8, 9, 0xA, 0xB, 0xC, 0xD, 0xF] : List Word)) ∨
  (w &&& 0xF000 = 0xE000 ∧ w &&& 0x00FF ∉ ([0x9E, 0xA1] : List Word)) ∨
  (w &&& 0xF000 = 0xF000 ∧ w &&& 0x00FF ∉ ([0x07, 0x0A, 0x15, 0x18, 0x1E, 0x29, 0x33, 0x55, 0x65] : List Word))

/-! ### Commands one after the other -/

/-- The commands carried out in their order. -/
def performAll : List Command → State → Result
  | [], s => .next s
  | c :: cs, s =>
    match perform c s with
    | .next t => performAll cs t
    | stop => stop

/-- The two commands of which R186 lets "any number ..., zero included, occur between any two ticks". -/
def Command.betweenTicks : Command → Bool
  | .timerStep => true
  | .setKey _ => true
  | .tick _ => false
  | .fbRead _ _ => false
  | .dchRead => false
  | .load _ => false
  | .reset => false

/-- The key that the last `SET_KEY` of the commands sets, `none` where no command sets one. -/
def lastKeySet (commands : List Command) : Option (Option KeyCode) :=
  commands.foldl (fun k c => match c with | .setKey key => some key | _ => k) none

/-! ### Safe runs -/

/-- A state a run may go on from: the machine has neither failed nor finished (R151). -/
def State.running (s : State) : Bool := s.status == .normal

/-- The next state of a result, where it has one. -/
def nextOf : Result → Option State
  | .next t => some t
  | _ => none

end Sys2Proof.Machine
end

