-- ==== Sys2Proof/Certificates/Slice0/Obligations.lean ====
section
/-! DEFINITION. The statements about the machine. `t = { s with f := t.f, ... }` says that every part of the state but the parts named
is unchanged; memory is said through the read of one byte. The parameter record is a part of the state, so every statement holds for
every setting of R7. -/

open Sys2Proof Sys2Proof.Machine

/-! ### Encoding (30_encoding.md) -/

/-- Decode after encode gives every well-formed instruction back, with every operand at every value. -/
def Obligations.DecodeOfEncodeIsInstruction : Prop :=
  ∀ i : Instr, i.wf = true → decode (encode i) = .ok i

/-- Encode after decode gives every recognized word back, and what is decoded is well-formed. -/
def Obligations.EncodeOfDecodeIsWord : Prop :=
  ∀ (w : Word) (i : Instr), decode w = .ok i → encode i = w ∧ i.wf = true

/-- R63, R64 (the match values are the spec's general knowledge, log 8): the decode procedure and the table of masks and matches
agree on every word: the rows a word matches are the one row of the instruction decoded, or none where the word is rejected. -/
def Obligations.DecodeAgreesWithOpcodeTable : Prop :=
  ∀ w : Word, (opcodeTable.filter (·.matchesWord w)).map (·.row) =
    match decode w with
    | .ok i => [i.row]
    | .error _ => []

/-- R65 (with the match values of log 8): the words that decode rejects are exactly the listed ones. -/
def Obligations.DecodeRejectsExactlyReservedWords : Prop :=
  ∀ w : Word, (∃ e, decode w = .error e) ↔ reservedWord w

/-- Words written out from the encodings of R63 (log 8). -/
def Obligations.SampleWordsDecode : Prop :=
  decode 0x00E0 = .ok .cls ∧ decode 0x00EE = .ok .ret ∧ decode 0x0123 = .ok (.sys 0x123) ∧ decode 0x1ABC = .ok (.jp 0xABC) ∧
  decode 0x3A42 = .ok (.seImm 0xA 0x42) ∧ decode 0x8014 = .ok (.addReg 0 1) ∧ decode 0xA2F0 = .ok (.ldI 0x2F0) ∧
  decode 0xD125 = .ok (.drw 1 2 5) ∧ decode 0xE29E = .ok (.skp 2) ∧ decode 0xF265 = .ok (.ldVxMem 2) ∧
  decode 0x5121 = .error .reservedFamily5 ∧ decode 0xF0FF = .error .reservedFamilyF

/-! ### Memory (20_memory.md) -/

/-- R45: the two-byte read is big-endian, needs no alignment, and fails with `addr` or with 4096 (that address is the spec's
decision D15). -/
def Obligations.WordReadIsBigEndian : Prop :=
  ∀ (m : Memory) (a : Word), memRead2 m a.toNat =
    if 4096 ≤ a.toNat then .error a
    else if a.toNat = 4095 then .error 4096
    else .ok (m.read a.toNat ++ m.read (a.toNat + 1) : BitVec 16)

/-- R46: a segment read gives all its bytes or, with any of them out of range, only the first out-of-range address
(decision D15). -/
def Obligations.SegmentReadIsAtomic : Prop :=
  ∀ (m : Memory) (a : Word) (len : Nat), 1 ≤ len →
    (4096 ≤ a.toNat + len - 1 → memReadSeg m a.toNat len = .error (BitVec.ofNat 16 (max a.toNat 4096))) ∧
    (a.toNat + len - 1 < 4096 → ∃ bytes, memReadSeg m a.toNat len = .ok bytes ∧ bytes.length = len ∧
      ∀ k, k < len → bytes[k]? = some (m.read (a.toNat + k)))

/-- R47: a write, and a run of writes, stores its bytes and leaves every other cell alone, keeps the canonical form, and with any
address out of range writes nothing (decision D15). -/
def Obligations.WritesStoreExactlyTheirBytes : Prop :=
  ∀ (m : Memory) (a : Word) (bytes : List Byte), m.wf = true → bytes ≠ [] →
    (4096 ≤ a.toNat + bytes.length - 1 →
      memWriteSeg m a.toNat bytes = .error (BitVec.ofNat 16 (max a.toNat 4096))) ∧
    (a.toNat + bytes.length - 1 < 4096 → ∃ m', memWriteSeg m a.toNat bytes = .ok m' ∧ m'.wf = true ∧
      ∀ b, m'.read b = if a.toNat ≤ b ∧ b < a.toNat + bytes.length then bytes.getD (b - a.toNat) 0 else m.read b) ∧
    (∀ v, memWrite1 m a.toNat v = memWriteSeg m a.toNat [v])

/-- Two canonical memories that read the same are the same data (log 7). -/
def Obligations.CanonicalMemoriesAreUnique : Prop :=
  ∀ m m' : Memory, m.wf = true → m'.wf = true → (∀ a, m.read a = m'.read a) → m = m'

/-! ### The tick (60_exceptions.md) -/

/-- What a step is. In every state: with commands queued it takes the first from the queue and carries it out (the queue is the
model's, log 5). With none queued the host is free (R186, log 20): before the tick come as many timer steps as the free value
`Config.timerSteps` says and the key the free value `Config.keyCommand` says, if any, in any `STATUS`, and then a `TICK` with a free
byte. So what is said below of `tick` and `perform` reaches every step. In `STATUS` `Normal` with a word to fetch, either tick is exec
of the instruction that the two bytes at `pc` decode to, in the state at the start of the tick (logs 4, 14). -/
def Obligations.StepRunsDecodedInstruction : Prop :=
  ∀ s : State,
    let free := { s with
      dt := BitVec.ofNat 8 (s.dt.toNat - Config.timerSteps s.ticks)
      st := BitVec.ofNat 8 (s.st.toNat - Config.timerSteps s.ticks)
      key := match Config.keyCommand s.ticks with
        | none => s.key
        | some k => k }
    (s.pending = [] → step s = tick none free) ∧
    (∀ c cs, s.pending = c :: cs → step s = perform c { s with pending := cs }) ∧
    (∀ r, perform (.tick r) s = tick r s) ∧
    (∀ i : Instr, s.status = .normal → s.pc.toNat ≤ 4094 →
      decode (wordOfBytes (s.mem.read s.pc.toNat) (s.mem.read (s.pc.toNat + 1))) = .ok i →
      (s.pending = [] → step s = exec i { free with dch := false, rnd := none, ticks := s.ticks + 1 }) ∧
      (∀ r cs, s.pending = .tick r :: cs →
        step s = exec i { s with pending := cs, dch := false, rnd := r, ticks := s.ticks + 1 }))

/-- R150: the whole protocol of a tick, steps 0 to 6 with the fault entries of R156 (step 0 is the spec's decision D13, the infos
D14 and D15), and the outcome of a queued `TICK` is the new `STATUS` (R151). Every tick, one in a terminal `STATUS` too, first
clears `DCH` (decision D19; that it does so at its start is log 14) and records its byte and its number, `rnd` and `ticks`, which
are the model's own (log 4). That `DCH` ends 1 exactly for CLS and DRW is `DisplayChangedMarksClsAndDrw`. -/
def Obligations.TickFollowsProtocol : Prop :=
  ∀ (r : Option Byte) (s : State),
    (tick r s =
      let s' := { s with dch := false, rnd := r, ticks := s.ticks + 1 }
      if s.status ≠ .normal then .next s'
      else if 4096 ≤ s.pc.toNat then .next { s' with status := .finished }
      else if s.pc.toNat = 4095 then .next (s'.faulted .memOutOfRange 4096)
      else match decode (s.mem.read s.pc.toNat ++ s.mem.read (s.pc.toNat + 1) : BitVec 16) with
        | .error _ => .next (s'.faulted .decodeFault (s.mem.read s.pc.toNat ++ s.mem.read (s.pc.toNat + 1) : BitVec 16))
        | .ok i => exec i s') ∧
    (∀ t, tick r s = .next t → answer (.tick r) s = .outcome t.status)

/-- Every step answers a next state: no fault and no refusal of the model ever ends a run. -/
def Obligations.EveryStepAnswersNext : Prop :=
  ∀ s : State, ∃ t, step s = .next t

/-- R158 (decision D13): a tick in a terminal status returns that status again and changes nothing but `DCH <- 0` (and the model's
own record of the tick). -/
def Obligations.TerminalStatusIsSticky : Prop :=
  ∀ (r : Option Byte) (s : State), s.status ≠ .normal →
    tick r s = .next { s with dch := false, rnd := r, ticks := s.ticks + 1 } ∧ ∀ b, answer (.tick b) s = .outcome s.status

/-- R157 (for runs of writes decision D15): after a fault every piece of state except `STATUS` and `DCH` (and the model's own
record of the tick) has the value it had before the tick. -/
def Obligations.FaultsArePrecise : Prop :=
  ∀ (r : Option Byte) (s t : State) (cause : FaultCause) (info : Word), s.status = .normal → tick r s = .next t →
    t.status = .error cause info →
    t = { s with status := .error cause info, dch := false, rnd := r, ticks := s.ticks + 1 }

/-- The info recorded with a fault (R153, decision D14): the word at `pc`, or for a memory fault an out-of-range address. -/
def Obligations.FaultInfoIsWordOrAddress : Prop :=
  ∀ (r : Option Byte) (s t : State) (cause : FaultCause) (info : Word), s.status = .normal → tick r s = .next t →
    t.status = .error cause info →
    (cause ≠ .memOutOfRange → fetch s = .ok info) ∧ (cause = .memOutOfRange → 4096 ≤ info.toNat)

/-- Which instruction can raise what (R154, derived in the spec), and that execution never finishes a run. -/
def Obligations.OnlyListedInstructionsFault : Prop :=
  ∀ (i : Instr) (s t : State), s.status = .normal → exec i s = .next t →
    t.status = .normal ∨ ∃ cause info, t.status = .error cause info ∧
      ((cause = .decodeFault ∧ ∃ nnn, i = .sys nnn) ∨
       (cause = .stackUnderflow ∧ i = .ret) ∨
       (cause = .stackOverflow ∧ ∃ nnn, i = .call nnn) ∨
       (cause = .spriteLength ∧ ∃ x y, i = .drw x y 0) ∨
       (cause = .memOutOfRange ∧
         ((∃ x y n, i = .drw x y n) ∨ (∃ x, i = .ldB x) ∨ (∃ x, i = .ldMemVx x) ∨ (∃ x, i = .ldVxMem x))))

/-- R158 (derived in the spec): the sticky status and a re-execution cannot be told apart: run again from the unchanged state,
whatever the host did to the key and the timers and whatever the random byte, the faulting instruction reports the same fault. -/
def Obligations.ReexecutionReportsTheSameFault : Prop :=
  ∀ (r r' : Option Byte) (s t : State) (cause : FaultCause) (info : Word) (k : Option KeyCode) (d1 d2 : Byte),
    s.status = .normal → tick r s = .next t → t.status = .error cause info →
    ∃ u, tick r' { t with status := .normal, key := k, dt := d1, st := d2 } = .next u ∧ u.status = .error cause info

/-- The display-changed flag after a tick (R21, R150, decision D19): 1 exactly when the tick completed a CLS or a DRW. -/
def Obligations.DisplayChangedMarksClsAndDrw : Prop :=
  ∀ (r : Option Byte) (s t : State), tick r s = .next t →
    (t.dch = true ↔ s.status = .normal ∧ t.status = .normal ∧
      ∃ w i, fetch s = .ok w ∧ decode w = .ok i ∧ (i = .cls ∨ ∃ x y n, i = .drw x y n))

/-- A tick that does not execute RND ignores `rnd` (R111, decision D27, log 4): two ticks that differ only in it give states that
differ only in it. -/
def Obligations.RandomByteReachesOnlyRnd : Prop :=
  ∀ (r r' : Option Byte) (s t : State), (∀ w x nn, fetch s = .ok w → decode w ≠ .ok (.rnd x nn)) →
    tick r s = .next t → tick r' s = .next { t with rnd := r' }

/-! ### What holds along every run -/

/-- The invariant holds after reset. -/
def Obligations.InvariantHoldsAtReset : Prop := State.reset.Inv

/-- Every step, whatever command it carries out, keeps the invariant: canonical memory, `pc` at most 4350 (R13), at most 16 return
addresses of at most 4096, an image of at most 3584 bytes, `Finished` only past the end, fault infos that name their cause. -/
def Obligations.EveryStepKeepsInvariant : Prop :=
  ∀ s t : State, s.Inv → step s = .next t → t.Inv

/-! ### Whole-machine rules -/

/-- R89: the program counter after every instruction, with the targets of R81 to R83 and R88 (decisions D4, D23); after a fault it
is unchanged. -/
def Obligations.ProgramCounterRule : Prop :=
  ∀ (i : Instr) (s t : State), s.status = .normal → exec i s = .next t →
    t.pc = if t.status = .normal then pcAfter i s else s.pc

/-- R18, R16: instructions write the framebuffer only through CLS and DRW and the stack only through CALL and RET. -/
def Obligations.OnlyTheirInstructionsWriteDisplayAndStack : Prop :=
  ∀ (i : Instr) (s t : State), exec i s = .next t →
    (t.fb = s.fb ∨ i = .cls ∨ ∃ x y n, i = .drw x y n) ∧ (t.stack = s.stack ∨ i = .ret ∨ ∃ nnn, i = .call nnn)

/-- Of all instructions only LD B and LD [I],VX store to memory; every other leaves every byte as it was. -/
def Obligations.OnlyTwoInstructionsStoreToMemory : Prop :=
  ∀ (i : Instr) (s t : State), exec i s = .next t → (∀ x, i ≠ .ldB x) → (∀ x, i ≠ .ldMemVx x) → s.MemorySame t

/-- R14: what writes `I`. -/
def Obligations.OnlyItsInstructionsWriteI : Prop :=
  ∀ (i : Instr) (s t : State), exec i s = .next t →
    t.i = s.i ∨ (∃ nnn, i = .ldI nnn) ∨ (∃ x, i = .addI x) ∨ (∃ x, i = .ldF x) ∨
      (s.cfg.loadStoreIncI = true ∧ ∃ x, i = .ldMemVx x ∨ i = .ldVxMem x)

/-- R15, R19, R22: no instruction counts a timer down or writes `KEY`, `IMAGE`, or anything that is the host's; the timers change
only by their own load instructions. -/
def Obligations.InstructionsLeaveHostStateAlone : Prop :=
  ∀ (i : Instr) (s t : State), exec i s = .next t →
    (t.dt = s.dt ∨ ∃ x, i = .ldDtVx x ∧ t.dt = s.reg x) ∧ (t.st = s.st ∨ ∃ x, i = .ldStVx x ∧ t.st = s.reg x) ∧
    t.key = s.key ∧ t.image = s.image ∧ t.cfg = s.cfg ∧ t.pending = s.pending ∧ t.rnd = s.rnd ∧ t.ticks = s.ticks

/-- No instruction reads `ST` (R15): what an instruction does is the same for every value of it. -/
def Obligations.NoInstructionReadsSoundTimer : Prop :=
  ∀ (i : Instr) (s t : State) (v : Byte), exec i s = .next t →
    exec i { s with st := v } = .next { t with st := if (∃ x, i = .ldStVx x) then t.st else v }

/-! ### Control transfer (40_flow.md) -/

/-- `SYS NNN` (R80, decision D2): `DecodeFault` with the word `0NNN`, or under `SYS_POLICY = nop` only `pc <- pc + 2`. -/
def Obligations.SysFaultsOrOnlyAdvances : Prop :=
  ∀ (nnn : Addr12) (s : State),
    (s.cfg.sysPolicy = .fault → exec (.sys nnn) s = .next (s.faulted .decodeFault (nnn.setWidth 16))) ∧
    (s.cfg.sysPolicy = .nop → exec (.sys nnn) s = .next { s with pc := s.pc + 2 })

/-- R81: RET pops the most recent entry into `pc`, plus 2 under `QUIRK_CALL_PUSH_PRE`, and with an empty stack raises
`StackUnderflow` (its info is decision D14) with no state changed. -/
def Obligations.RetPopsIntoPc : Prop :=
  ∀ s : State,
    (∀ a rest, s.stack = a :: rest →
      exec .ret s = .next { s with stack := rest, pc := if s.cfg.callPushPre then a + 2 else a }) ∧
    (s.sp = 0 → exec .ret s = .next (s.faulted .stackUnderflow 0x00EE))

/-- R82: JP sets `pc` to the address field and changes nothing else. -/
def Obligations.JumpSetsPc : Prop :=
  ∀ (nnn : Addr12) (s : State), exec (.jp nnn) s = .next { s with pc := nnn.setWidth 16 }

/-- R83: CALL pushes the address of the next instruction (its own under `QUIRK_CALL_PUSH_PRE`) as entry number `SP` and jumps;
with 16 entries it raises `StackOverflow` (its info is decision D14) with nothing changed. -/
def Obligations.CallPushesAndJumps : Prop :=
  ∀ (nnn : Addr12) (s : State),
    (s.sp < 16 → ∃ t, exec (.call nnn) s = .next t ∧ t.pc = nnn.setWidth 16 ∧ t.sp = s.sp + 1 ∧
      t.stackSlot s.sp = some (if s.cfg.callPushPre then s.pc else s.pc + 2) ∧
      (∀ k, k < s.sp → t.stackSlot k = s.stackSlot k) ∧ t = { s with pc := t.pc, stack := t.stack }) ∧
    (16 ≤ s.sp → exec (.call nnn) s = .next (s.faulted .stackOverflow (0x2000 ||| nnn.setWidth 16)))

/-- A RET that matches a CALL continues at the instruction after the CALL with the stack as it was, under either value of
`QUIRK_CALL_PUSH_PRE` (decision D4). -/
def Obligations.ReturnContinuesAfterCall : Prop :=
  ∀ (nnn : Addr12) (s t u : State), s.sp < 16 → exec (.call nnn) s = .next t → u.stack = t.stack → u.cfg = s.cfg →
    exec .ret u = .next { u with stack := s.stack, pc := s.pc + 2 }

/-- JP V0, NNN (R88, decision D23): `NNN + x[0]` over the integers, nothing masked. -/
def Obligations.JumpWithOffsetAddsV0 : Prop :=
  ∀ (nnn : Addr12) (s : State), ∃ t, exec (.jpV0 nnn) s = .next t ∧ t.pc.toNat = nnn.toNat + (s.reg 0).toNat ∧
    t = { s with pc := t.pc }

/-- R84 to R87: the four compare-and-skip forms. -/
def Obligations.CompareSkips : Prop :=
  ∀ (x y : Reg) (nn : Byte) (s : State),
    exec (.seImm x nn) s = .next { s with pc := if s.reg x = nn then s.pc + 4 else s.pc + 2 } ∧
    exec (.sneImm x nn) s = .next { s with pc := if s.reg x ≠ nn then s.pc + 4 else s.pc + 2 } ∧
    exec (.seReg x y) s = .next { s with pc := if s.reg x = s.reg y then s.pc + 4 else s.pc + 2 } ∧
    exec (.sneReg x y) s = .next { s with pc := if s.reg x ≠ s.reg y then s.pc + 4 else s.pc + 2 }

/-! ### Register load, arithmetic, logic, shift, random (41_alu.md) -/

/-- R100, R102: the two loads write the one register. That the copy leaves `VF` alone is the spec's decision D6 (log 16). -/
def Obligations.LoadsWriteOneRegister : Prop :=
  ∀ (x y : Reg) (nn : Byte) (s : State),
    (∃ t, exec (.ldImm x nn) s = .next t ∧ (∀ r, t.reg r = if r = x then nn else s.reg r) ∧ t.pc = s.pc + 2 ∧
      t = { s with regs := t.regs, pc := t.pc } ∧ s.MemorySame t) ∧
    (∃ t, exec (.ldReg x y) s = .next t ∧ (∀ r, t.reg r = if r = x then s.reg y else s.reg r) ∧ t.pc = s.pc + 2 ∧
      t = { s with regs := t.regs, pc := t.pc } ∧ s.MemorySame t)

/-- ADD VX, NN (R101, decision D25): the sum modulo 256, and `VF` not written as a flag. -/
def Obligations.AddImmediateWritesNoFlag : Prop :=
  ∀ (x : Reg) (nn : Byte) (s : State), ∃ t, exec (.addImm x nn) s = .next t ∧
    (∀ r, t.reg r = if r = x then BitVec.ofNat 8 (((s.reg x).toNat + nn.toNat) % 256) else s.reg r) ∧ t.pc = s.pc + 2 ∧
    t = { s with regs := t.regs, pc := t.pc } ∧ s.MemorySame t

/-- OR, AND, XOR (R103 to R105, decision D6): bit by bit, and `VF` cleared after the result only under `QUIRK_LOGIC_RESETS_VF`. -/
def Obligations.LogicIsBitwise : Prop :=
  ∀ (i : Instr) (f : Bool → Bool → Bool) (x y : Reg) (s : State),
    (i = .orReg x y ∧ f = or) ∨ (i = .andReg x y ∧ f = and) ∨ (i = .xorReg x y ∧ f = xor) →
    ∃ t, exec i s = .next t ∧
      (∀ r, s.cfg.logicResetsVF = true ∧ r = VF → t.reg r = 0) ∧
      (∀ r, ¬ (s.cfg.logicResetsVF = true ∧ r = VF) → ∀ k, k < 8 →
        (t.reg r).getLsbD k = if r = x then f ((s.reg x).getLsbD k) ((s.reg y).getLsbD k) else (s.reg r).getLsbD k) ∧
      t.pc = s.pc + 2 ∧ t = { s with regs := t.regs, pc := t.pc } ∧ s.MemorySame t

/-- R106: ADD VX, VY wraps modulo 256, `VF` is 1 iff the unwrapped sum exceeded 255, and with `X = 0xF` the later of the two writes
wins. -/
def Obligations.AddWrapsAndCarries : Prop :=
  ∀ (x y : Reg) (s : State), ∃ t, exec (.addReg x y) s = .next t ∧
    (∀ r, t.reg r =
      let sum := (s.reg x).toNat + (s.reg y).toNat
      let result : Byte := BitVec.ofNat 8 (sum % 256)
      let flag : Byte := if sum > 255 then 1 else 0
      if s.cfg.vfOrderAddSub = .flagLast then (if r = VF then flag else if r = x then result else s.reg r)
      else (if r = x then result else if r = VF then flag else s.reg r)) ∧
    t.pc = s.pc + 2 ∧ t = { s with regs := t.regs, pc := t.pc } ∧ s.MemorySame t

/-- R107, R109: SUB takes `x[Y]` from `x[X]`, SUBN `x[X]` from `x[Y]`, modulo 256; `VF` is 1 iff no borrow occurred. -/
def Obligations.SubtractionsWrapAndBorrow : Prop :=
  ∀ (i : Instr) (x y : Reg) (a b : Nat) (s : State),
    (i = .sub x y ∧ a = (s.reg x).toNat ∧ b = (s.reg y).toNat) ∨ (i = .subn x y ∧ a = (s.reg y).toNat ∧ b = (s.reg x).toNat) →
    ∃ t, exec i s = .next t ∧
    (∀ r, t.reg r =
      let result : Byte := BitVec.ofInt 8 (((a : Int) - (b : Int)) % 256)
      let flag : Byte := if a ≥ b then 1 else 0
      if s.cfg.vfOrderAddSub = .flagLast then (if r = VF then flag else if r = x then result else s.reg r)
      else (if r = x then result else if r = VF then flag else s.reg r)) ∧
    t.pc = s.pc + 2 ∧ t = { s with regs := t.regs, pc := t.pc } ∧ s.MemorySame t

/-- R108, R110: SHR and SHL by one place of `x[X]` (`x[Y]` under `QUIRK_SHIFT_USES_VY`); `VF` takes the bit shifted out before the
result is written, so with `X = 0xF` it ends as the result. -/
def Obligations.ShiftsByOnePlace : Prop :=
  ∀ (x y : Reg) (s : State),
    let v := (if s.cfg.shiftUsesVY then s.reg y else s.reg x).toNat
    (∃ t, exec (.shr x y) s = .next t ∧
      (∀ r, t.reg r = if r = x then BitVec.ofNat 8 (v / 2) else if r = VF then BitVec.ofNat 8 (v % 2) else s.reg r) ∧
      t.pc = s.pc + 2 ∧ t = { s with regs := t.regs, pc := t.pc } ∧ s.MemorySame t) ∧
    (∃ t, exec (.shl x y) s = .next t ∧
      (∀ r, t.reg r = if r = x then BitVec.ofNat 8 (v * 2 % 256) else if r = VF then BitVec.ofNat 8 (v / 128) else s.reg r) ∧
      t.pc = s.pc + 2 ∧ t = { s with regs := t.regs, pc := t.pc } ∧ s.MemorySame t)

/-- R111: RND writes `rnd & NN`, for every byte the host gives and for the free one (decision D27, log 4). -/
def Obligations.RndMasksTheRandomByte : Prop :=
  ∀ (x : Reg) (nn : Byte) (s : State), ∃ t, exec (.rnd x nn) s = .next t ∧
    (∀ r, t.reg r = if r = x then (match s.rnd with | some b => b | none => Config.rndInput s.ticks) &&& nn else s.reg r) ∧
    t.pc = s.pc + 2 ∧ t = { s with regs := t.regs, pc := t.pc } ∧ s.MemorySame t

/-! ### Address register and memory (42_index_memory.md) -/

/-- R120: LD I, NNN. -/
def Obligations.LoadIWritesTheAddress : Prop :=
  ∀ (nnn : Addr12) (s : State), exec (.ldI nnn) s = .next { s with i := nnn.setWidth 16, pc := s.pc + 2 }

/-- ADD I, VX (R121, decision D17) modulo 65536 and LD F, VX (R122, decision D16) five times the digit; neither writes a register,
so `VF` is unchanged. -/
def Obligations.AddIAndGlyphAddress : Prop :=
  ∀ (x : Reg) (s : State),
    (∃ t, exec (.addI x) s = .next t ∧ t.i.toNat = (s.i.toNat + (s.reg x).toNat) % 65536 ∧ t.pc = s.pc + 2 ∧
      t = { s with i := t.i, pc := t.pc } ∧ s.MemorySame t) ∧
    (∃ t, exec (.ldF x) s = .next t ∧
      t.i.toNat = 5 * (if s.cfg.fontMaskLowNibble then (s.reg x).toNat % 16 else (s.reg x).toNat) ∧ t.pc = s.pc + 2 ∧
      t = { s with i := t.i, pc := t.pc } ∧ s.MemorySame t)

/-- R123: LD B stores the hundreds, tens and ones of `x[X]` at `I`, `I + 1`, `I + 2`, or, with any of them out of range, raises
`MemOutOfRange` with nothing written (decision D15). -/
def Obligations.BcdStoresThreeDigits : Prop :=
  ∀ (x : Reg) (s : State), s.mem.wf = true →
    (s.i.toNat + 2 < 4096 → ∃ t, exec (.ldB x) s = .next t ∧
      (∃ h d o : Byte, t.mem.read s.i.toNat = h ∧ t.mem.read (s.i.toNat + 1) = d ∧ t.mem.read (s.i.toNat + 2) = o ∧
        (s.reg x).toNat = 100 * h.toNat + 10 * d.toNat + o.toNat ∧ d.toNat ≤ 9 ∧ o.toNat ≤ 9) ∧
      s.MemorySameOutside t (dataAddress s) 3 ∧ t.pc = s.pc + 2 ∧ t = { s with mem := t.mem, pc := t.pc }) ∧
    (4096 ≤ s.i.toNat + 2 →
      exec (.ldB x) s = .next (s.faulted .memOutOfRange (BitVec.ofNat 16 (max s.i.toNat 4096))))

/-- R124: LD [I], VX stores `x[0]` to `x[X]` at `I` and up, and `I` goes on by `X + 1` only under `QUIRK_LOADSTORE_INC_I`; with the
last address out of range it raises `MemOutOfRange` with nothing written (decision D15). -/
def Obligations.BulkStoreWritesRegisters : Prop :=
  ∀ (x : Reg) (s : State), s.mem.wf = true →
    (s.i.toNat + x.val < 4096 → ∃ t, exec (.ldMemVx x) s = .next t ∧
      (∀ r : Reg, r ≤ x → t.mem.read (s.i.toNat + r.val) = s.reg r) ∧
      s.MemorySameOutside t (dataAddress s) (x.val + 1) ∧
      t.i.toNat = (if s.cfg.loadStoreIncI then (s.i.toNat + x.val + 1) % 65536 else s.i.toNat) ∧ t.pc = s.pc + 2 ∧
      t = { s with mem := t.mem, i := t.i, pc := t.pc }) ∧
    (4096 ≤ s.i.toNat + x.val →
      exec (.ldMemVx x) s = .next (s.faulted .memOutOfRange (BitVec.ofNat 16 (max s.i.toNat 4096))))

/-- R125: LD VX, [I] loads `x[0]` to `x[X]` from `I` and up, registers above `X` keep their values, and `I` goes on only under
`QUIRK_LOADSTORE_INC_I`; with the last address out of range it raises `MemOutOfRange` with no register changed (decision D15). -/
def Obligations.BulkLoadReadsRegisters : Prop :=
  ∀ (x : Reg) (s : State),
    (s.i.toNat + x.val < 4096 → ∃ t, exec (.ldVxMem x) s = .next t ∧
      (∀ r : Reg, t.reg r = if r ≤ x then s.mem.read (s.i.toNat + r.val) else s.reg r) ∧
      t.i.toNat = (if s.cfg.loadStoreIncI then (s.i.toNat + x.val + 1) % 65536 else s.i.toNat) ∧ t.pc = s.pc + 2 ∧
      t = { s with regs := t.regs, i := t.i, pc := t.pc } ∧ s.MemorySame t) ∧
    (4096 ≤ s.i.toNat + x.val →
      exec (.ldVxMem x) s = .next (s.faulted .memOutOfRange (BitVec.ofNat 16 (max s.i.toNat 4096))))

/-- A bulk load from where a bulk store went brings the registers back. -/
def Obligations.BulkLoadUndoesBulkStore : Prop :=
  ∀ (x : Reg) (s t u : State), s.mem.wf = true → s.i.toNat + x.val < 4096 → exec (.ldMemVx x) s = .next t →
    u.mem = t.mem → u.i = s.i → ∃ v, exec (.ldVxMem x) u = .next v ∧ ∀ r : Reg, r ≤ x → v.reg r = s.reg r

/-! ### Display (43_display.md) -/

/-- R130: CLS turns every pixel off, sets `DCH` (decision D19), and changes nothing else. -/
def Obligations.ClsTurnsEveryPixelOff : Prop :=
  ∀ s : State, ∃ t, exec .cls s = .next t ∧ (∀ cx cy, t.fb.pixel cx cy = false) ∧ t.dch = true ∧ t.pc = s.pc + 2 ∧
    t = { s with fb := t.fb, dch := t.dch, pc := t.pc } ∧ s.MemorySame t

/-- R131: DRW reads its `N` rows at `I`, blits them at the origin (reduced modulo the screen only under `QUIRK_DRAW_WRAP_START`),
writes the collision to `VF` and sets `DCH`; `N = 0` raises `SpriteLength` first, and a row out of range `MemOutOfRange`, with
nothing drawn (decisions D14, D15, D18, D19, D32). -/
def Obligations.DrwBlitsAndReportsCollision : Prop :=
  ∀ (x y : Reg) (n : Fin 16) (s : State),
    (n ≠ 0 → s.i.toNat + n.val - 1 < 4096 →
      let ox := if s.cfg.drawWrapStart then (s.reg x).toNat % 64 else (s.reg x).toNat
      let oy := if s.cfg.drawWrapStart then (s.reg y).toNat % 32 else (s.reg y).toNat
      let drawn := blit s.fb (bytesAt s.mem (dataAddress s) n.val) ox oy
      ∃ t, exec (.drw x y n) s = .next t ∧ t.fb = drawn.1 ∧
        (∀ r, t.reg r = if r = VF then (if drawn.2 = true then 1 else 0) else s.reg r) ∧ t.dch = true ∧ t.pc = s.pc + 2 ∧
        t = { s with regs := t.regs, fb := t.fb, dch := t.dch, pc := t.pc } ∧ s.MemorySame t) ∧
    (n = 0 → exec (.drw x y n) s =
      .next (s.faulted .spriteLength (BitVec.ofNat 16 (0xD000 + 256 * x.val + 16 * y.val)))) ∧
    (n ≠ 0 → 4096 ≤ s.i.toNat + n.val - 1 →
      exec (.drw x y n) s = .next (s.faulted .memOutOfRange (BitVec.ofNat 16 (max s.i.toNat 4096))))

/-- R132: the blit turns over exactly the pixels of the grid that are targets of a set bit of the sprite, clipped and never wrapped,
and reports a collision exactly when one of them was on (property c of R132, derived in the spec). -/
def Obligations.BlitIsClippedXor : Prop :=
  ∀ (fb : Framebuffer) (rows : List Byte) (ox oy : Nat),
    (∀ cx cy, cx < 64 → cy < 32 →
      (blit fb rows ox oy).1.pixel cx cy = (fb.pixel cx cy ^^ spriteBit rows ox oy cx cy)) ∧
    ((blit fb rows ox oy).2 = true ↔
      ∃ cx cy, cx < 64 ∧ cy < 32 ∧ fb.pixel cx cy = true ∧ spriteBit rows ox oy cx cy = true)

/-- Drawing the same rows at the same origin twice restores the framebuffer, and the second blit collides exactly when the first
turned a pixel on (R132 property d, derived in the spec). -/
def Obligations.BlitTwiceRestores : Prop :=
  ∀ (fb : Framebuffer) (rows : List Byte) (ox oy : Nat),
    (blit (blit fb rows ox oy).1 rows ox oy).1 = fb ∧
    ((blit (blit fb rows ox oy).1 rows ox oy).2 = true ↔
      ∃ cx cy, cx < 64 ∧ cy < 32 ∧ fb.pixel cx cy = false ∧ (blit fb rows ox oy).1.pixel cx cy = true)

/-! ### Keypad and timers (44_keypad_timers.md) -/

/-- R140, R141: SKP skips when the key of the code `x[X]` is held, SKNP when it is not. That all 8 bits of `x[X]` are compared is
the spec's decision D20 (R148, log 16). -/
def Obligations.KeySkips : Prop :=
  ∀ (x : Reg) (s : State),
    (exec (.skp x) s = .next { s with pc := if ∃ k, s.key = some k ∧ k.toNat = (s.reg x).toNat then s.pc + 4 else s.pc + 2 }) ∧
    (exec (.sknp x) s = .next { s with pc := if ∃ k, s.key = some k ∧ k.toNat = (s.reg x).toNat then s.pc + 2 else s.pc + 4 })

/-- R142: LD VX, K takes the held key's code (general knowledge, decision D24) and advances; with none held nothing changes. -/
def Obligations.WaitForKey : Prop :=
  ∀ (x : Reg) (s : State),
    (s.key = none → exec (.ldVxK x) s = .next s) ∧
    (∀ k, s.key = some k → ∃ t, exec (.ldVxK x) s = .next t ∧
      (∀ r, t.reg r = if r = x then k.setWidth 8 else s.reg r) ∧ t.pc = s.pc + 2 ∧
      t = { s with regs := t.regs, pc := t.pc } ∧ s.MemorySame t)

/-- R143 to R145: the three timer instructions. -/
def Obligations.TimerInstructionsCopy : Prop :=
  ∀ (x : Reg) (s : State),
    (∃ t, exec (.ldVxDt x) s = .next t ∧ (∀ r, t.reg r = if r = x then s.dt else s.reg r) ∧ t.pc = s.pc + 2 ∧
      t = { s with regs := t.regs, pc := t.pc } ∧ s.MemorySame t) ∧
    exec (.ldDtVx x) s = .next { s with dt := s.reg x, pc := s.pc + 2 } ∧
    exec (.ldStVx x) s = .next { s with st := s.reg x, pc := s.pc + 2 }

/-! ### The host's commands (43_display.md, 44_keypad_timers.md, 70_reset_and_hazards.md) -/

/-- R146: SET_KEY replaces the held key, in any status, and changes nothing else. -/
def Obligations.SetKeyReplacesTheKey : Prop :=
  ∀ (k : Option KeyCode) (s : State), perform (.setKey k) s = .next { s with key := k }

/-- TIMER_STEP (R147, decision D21): each timer above 0 goes down by 1, a timer at 0 stays, each on its own and in any status;
nothing else changes. And "any number of `TIMER_STEP` and `SET_KEY` commands, zero included" (R186, derived in the spec): any run of
these two commands takes its number of steps from each timer, down to 0, and leaves the key it set last; and every such number and
key is what some run comes to, so the free host of a step with nothing queued (log 20) does neither more nor less. -/
def Obligations.TimerStepCountsDown : Prop :=
  (∀ s : State, ∃ t, perform .timerStep s = .next t ∧ t.dt.toNat = s.dt.toNat - 1 ∧ t.st.toNat = s.st.toNat - 1 ∧
    t = { s with dt := t.dt, st := t.st }) ∧
  (∀ (commands : List Command) (s : State), (∀ c ∈ commands, c.betweenTicks = true) → ∃ t, performAll commands s = .next t ∧
    t.dt.toNat = s.dt.toNat - commands.count .timerStep ∧ t.st.toNat = s.st.toNat - commands.count .timerStep ∧
    t.key = (match lastKeySet commands with | none => s.key | some key => key) ∧
    t = { s with dt := t.dt, st := t.st, key := t.key }) ∧
  (∀ (n : Nat) (k : Option (Option KeyCode)), ∃ commands : List Command, (∀ c ∈ commands, c.betweenTicks = true) ∧
    ∀ s : State, performAll commands s = .next { s with
      dt := BitVec.ofNat 8 (s.dt.toNat - n)
      st := BitVec.ofNat 8 (s.st.toNat - n)
      key := match k with
        | none => s.key
        | some key => key })

/-- R133, R134 (decisions D19, D26): the two reads of the host answer the pixel (or `OutOfRange`) and the flag, and change no
state. -/
def Obligations.HostReadsChangeNothing : Prop :=
  ∀ (cx cy : Nat) (s : State),
    perform (.fbRead cx cy) s = .next s ∧ perform .dchRead s = .next s ∧ answer .dchRead s = .changed s.dch ∧
    (∀ (hx : cx < 64) (hy : cy < 32), answer (.fbRead cx cy) s = .pixel s.fb[cy][cx]) ∧
    (¬ (cx < 64 ∧ cy < 32) → answer (.fbRead cx cy) s = .outOfRange)

/-- RESET (R180; the zeros are the spec's own decision D10, log 1): memory is zero, the glyph table (the bytes of R49, the spec's
general knowledge, log 8) and the image over it; the registers, `I` and the timers are zero, the stack empty, every pixel off,
`pc` 0x200, `STATUS` normal, `DCH` 0; `KEY` and `IMAGE` and what is the model's own are unchanged. -/
def Obligations.ResetRebuildsTheMachine : Prop :=
  ∀ s : State, s.image.length ≤ 3584 → ∃ t, perform .reset s = .next t ∧
    (∀ a, t.mem.read a =
      if a < 80 then fontByte (a / 5) (a % 5)
      else if 0x200 ≤ a ∧ a < 0x200 + s.image.length then s.image.getD (a - 0x200) 0 else 0) ∧
    t.mem.wf = true ∧ (∀ r, t.reg r = 0) ∧ t.i = 0 ∧ t.dt = 0 ∧ t.st = 0 ∧ t.sp = 0 ∧
    (∀ cx cy, t.fb.pixel cx cy = false) ∧ t.pc = 0x200 ∧ t.status = .normal ∧ t.dch = false ∧
    t.key = s.key ∧ t.image = s.image ∧ t.cfg = s.cfg ∧ t.rnd = s.rnd ∧ t.ticks = s.ticks ∧ t.pending = s.pending

/-- R182 (in every status by decision D33): LOAD keeps the first 3584 bytes as the image, drops the rest, and resets. -/
def Obligations.LoadReplacesTheImageAndResets : Prop :=
  ∀ (bytes : List Byte) (s : State), ∃ image, image.length = min bytes.length 3584 ∧
    (∀ k, k < image.length → image[k]? = bytes[k]?) ∧
    perform (.load bytes) s = perform .reset { s with image := image }

/-- The state after reset: `pc` 0x200, `STATUS` normal, the glyph table and zeros in memory (R25, given by the spec's source; the
glyph bytes are those of R49, the spec's general knowledge, log 8), and the spec's own decisions D10, D11, D12 and D19 for the rest
(logs 1 and 2). -/
def Obligations.ResetStateValues : Prop :=
  State.reset.pc = 0x200 ∧ State.reset.status = .normal ∧
  (∀ a, State.reset.mem.read a = if a < 80 then fontByte (a / 5) (a % 5) else 0) ∧
  (∀ r, State.reset.reg r = 0) ∧ State.reset.i = 0 ∧ State.reset.dt = 0 ∧ State.reset.st = 0 ∧ State.reset.sp = 0 ∧
  (∀ cx cy, State.reset.fb.pixel cx cy = false) ∧ State.reset.dch = false ∧ State.reset.key = none ∧ State.reset.image = []
end

