-- ==== Sys2Proof/Laws/Decode.lean ====
section
/-! SUPPORT. The fields of a word as arithmetic, the fields of an encoded instruction, and the masks of the opcode map as arithmetic. -/

namespace Sys2Proof

/-! ### Fields of a word -/

theorem fieldOP_eq (w : Word) : fieldOP w = w.toNat / 4096 := by
  have := w.isLt
  simp only [fieldOP, slice]
  omega

theorem fieldX_val (w : Word) : (fieldX w).val = w.toNat / 256 % 16 := by
  simp only [fieldX, slice, Fin.val_ofNat]
  omega

theorem fieldY_val (w : Word) : (fieldY w).val = w.toNat / 16 % 16 := by
  simp only [fieldY, slice, Fin.val_ofNat]
  omega

theorem fieldN_val (w : Word) : (fieldN w).val = w.toNat % 16 := by
  simp only [fieldN, slice, Fin.val_ofNat]
  omega

theorem fieldNN_toNat (w : Word) : (fieldNN w).toNat = w.toNat % 256 := by
  simp only [fieldNN, slice, BitVec.toNat_ofNat]
  omega

theorem fieldNNN_toNat (w : Word) : (fieldNNN w).toNat = w.toNat % 4096 := by
  simp only [fieldNNN, slice, BitVec.toNat_ofNat]
  omega

/-! ### Fields of an encoded word -/

theorem wordNNN_toNat {op : Nat} (h : op < 16) (nnn : Addr12) : (wordNNN op nnn).toNat = op * 4096 + nnn.toNat := by
  have := nnn.isLt
  simp only [wordNNN, BitVec.toNat_ofNat]
  omega

theorem wordXNN_toNat {op : Nat} (h : op < 16) (x : Reg) (nn : Byte) :
    (wordXNN op x nn).toNat = op * 4096 + x.val * 256 + nn.toNat := by
  have := nn.isLt
  have := x.isLt
  simp only [wordXNN, BitVec.toNat_ofNat]
  omega

theorem wordXYN_toNat {op : Nat} (h : op < 16) (x y : Reg) (n : Fin 16) :
    (wordXYN op x y n).toNat = op * 4096 + x.val * 256 + y.val * 16 + n.val := by
  have := n.isLt
  have := y.isLt
  have := x.isLt
  simp only [wordXYN, BitVec.toNat_ofNat]
  omega

section Encoded

variable {op : Nat} (h : op < 16) (nnn : Addr12) (x y : Reg) (nn : Byte) (n : Fin 16)

include h

@[simp] theorem fieldOP_wordNNN : fieldOP (wordNNN op nnn) = op := by
  have := nnn.isLt
  rw [fieldOP_eq, wordNNN_toNat h]
  omega

@[simp] theorem fieldNNN_wordNNN : fieldNNN (wordNNN op nnn) = nnn := by
  have := nnn.isLt
  apply BitVec.eq_of_toNat_eq
  rw [fieldNNN_toNat, wordNNN_toNat h]
  omega

@[simp] theorem fieldOP_wordXNN : fieldOP (wordXNN op x nn) = op := by
  have := nn.isLt
  have := x.isLt
  rw [fieldOP_eq, wordXNN_toNat h]
  omega

@[simp] theorem fieldX_wordXNN : fieldX (wordXNN op x nn) = x := by
  have := nn.isLt
  have := x.isLt
  apply Fin.ext
  rw [fieldX_val, wordXNN_toNat h]
  omega

@[simp] theorem fieldNN_wordXNN : fieldNN (wordXNN op x nn) = nn := by
  have := nn.isLt
  apply BitVec.eq_of_toNat_eq
  rw [fieldNN_toNat, wordXNN_toNat h]
  omega

@[simp] theorem fieldOP_wordXYN : fieldOP (wordXYN op x y n) = op := by
  have := n.isLt
  have := y.isLt
  have := x.isLt
  rw [fieldOP_eq, wordXYN_toNat h]
  omega

@[simp] theorem fieldX_wordXYN : fieldX (wordXYN op x y n) = x := by
  have := n.isLt
  have := y.isLt
  have := x.isLt
  apply Fin.ext
  rw [fieldX_val, wordXYN_toNat h]
  omega

@[simp] theorem fieldY_wordXYN : fieldY (wordXYN op x y n) = y := by
  have := n.isLt
  have := y.isLt
  apply Fin.ext
  rw [fieldY_val, wordXYN_toNat h]
  omega

@[simp] theorem fieldN_wordXYN : fieldN (wordXYN op x y n) = n := by
  have := n.isLt
  apply Fin.ext
  rw [fieldN_val, wordXYN_toNat h]
  omega

end Encoded

/-! ### Bytes of a word -/

theorem wordOfBytes_toNat (hi lo : Byte) : (wordOfBytes hi lo).toNat = hi.toNat * 256 + lo.toNat := by
  have := hi.isLt
  have := lo.isLt
  simp only [wordOfBytes, BitVec.toNat_ofNat]
  omega

/-- A word laid down big-endian and read back is the word (R43). -/
@[simp] theorem wordOfBytes_hiByte_loByte (w : Word) : wordOfBytes (hiByte w) (loByte w) = w := by
  have := w.isLt
  apply BitVec.eq_of_toNat_eq
  rw [wordOfBytes_toNat]
  simp only [hiByte, loByte, slice, BitVec.toNat_ofNat]
  omega

/-! ### The masks of the opcode map -/

theorem toNat_and_F000 (w : Word) : (w &&& 0xF000).toNat = w.toNat / 4096 * 4096 := by
  have h : w &&& (0xF000 : Word) = (w >>> 12) <<< 12 := by
    ext i hi
    interval_cases i <;> simp [BitVec.getLsbD_eq_getElem]
  have := w.isLt
  rw [h]
  simp only [BitVec.toNat_shiftLeft, BitVec.toNat_ushiftRight, Nat.shiftLeft_eq, Nat.shiftRight_eq_div_pow]
  omega

/-- A mask of the top nibble and the low `k` bits keeps the top nibble and the remainder by `2 ^ k`. -/
theorem toNat_and_top_low (w : Word) {k : Nat} (hk : k ≤ 12) :
    (w &&& (0xF000 ||| BitVec.ofNat 16 (2 ^ k - 1))).toNat = w.toNat / 4096 * 4096 + w.toNat % 2 ^ k := by
  have hlow : (w &&& BitVec.ofNat 16 (2 ^ k - 1)).toNat = w.toNat % 2 ^ k := by
    have : 2 ^ k - 1 < 2 ^ 16 := by
      have := Nat.pow_le_pow_right (n := 2) (by omega) hk
      omega
    rw [BitVec.toNat_and, BitVec.toNat_ofNat, Nat.mod_eq_of_lt this, Nat.and_two_pow_sub_one_eq_mod]
  have hlt : w.toNat % 2 ^ k < 2 ^ 12 :=
    (Nat.mod_lt _ (by positivity)).trans_le (Nat.pow_le_pow_right (by omega) hk)
  rw [BitVec.and_or_distrib_left, BitVec.toNat_or, hlow, toNat_and_F000]
  have := Nat.shiftLeft_add_eq_or_of_lt hlt (w.toNat / 4096)
  rw [Nat.shiftLeft_eq] at this
  exact this.symm

theorem toNat_and_F00F (w : Word) : (w &&& 0xF00F).toNat = w.toNat / 4096 * 4096 + w.toNat % 16 :=
  toNat_and_top_low w (k := 4) (by omega)

theorem toNat_and_F0FF (w : Word) : (w &&& 0xF0FF).toNat = w.toNat / 4096 * 4096 + w.toNat % 256 :=
  toNat_and_top_low w (k := 8) (by omega)

theorem and_FFFF (w : Word) : w &&& 0xFFFF = w := by
  have : (0xFFFF : Word) = BitVec.allOnes 16 := by decide
  rw [this, BitVec.and_allOnes]

end Sys2Proof
end

