-- ==== Sys2Proof/Laws/Display.lean ====
section
/-! SUPPORT. The laws of the framebuffer: what a pixel reads after one toggle and after one plotted bit. -/

namespace Sys2Proof.Machine

theorem Framebuffer.pixel_of_lt (fb : Framebuffer) {cx cy : Nat} (hx : cx < 64) (hy : cy < 32) :
    fb.pixel cx cy = fb[cy][cx] := by
  simp [Framebuffer.pixel, hx, hy]

/-- Outside the grid there is no pixel. -/
theorem Framebuffer.pixel_outside (fb : Framebuffer) {cx cy : Nat} (h : ¬ (cx < 64 ∧ cy < 32)) : fb.pixel cx cy = false := by
  unfold Framebuffer.pixel
  by_cases hy : cy < 32
  · have hx : ¬ cx < 64 := fun hx => h ⟨hx, hy⟩
    simp [hx, hy]
  · simp [hy]

/-- Two framebuffers with the same pixels are the same. -/
theorem Framebuffer.ext {f g : Framebuffer} (h : ∀ cx cy, cx < 64 → cy < 32 → f.pixel cx cy = g.pixel cx cy) : f = g := by
  apply Vector.ext
  intro cy hy
  apply Vector.ext
  intro cx hx
  have := h cx cy hx hy
  rwa [Framebuffer.pixel_of_lt f hx hy, Framebuffer.pixel_of_lt g hx hy] at this

@[simp] theorem Framebuffer.pixel_blank (cx cy : Nat) : Framebuffer.blank.pixel cx cy = false := by
  by_cases h : cx < 64 ∧ cy < 32
  · rw [Framebuffer.pixel_of_lt _ h.1 h.2]
    simp [Framebuffer.blank]
  · exact Framebuffer.pixel_outside _ h

/-- What a toggle can do: it turns the one pixel over, and only inside the grid. -/
theorem Framebuffer.pixel_toggle (fb : Framebuffer) {cx cy : Nat} (hx : cx < 64) (hy : cy < 32) (a b : Nat) :
    (fb.toggle cx cy).pixel a b = if a = cx ∧ b = cy then !fb.pixel cx cy else fb.pixel a b := by
  by_cases h : a < 64 ∧ b < 32
  · rw [Framebuffer.pixel_of_lt _ h.1 h.2, Framebuffer.pixel_of_lt fb h.1 h.2]
    simp only [Framebuffer.toggle, hy, Vector.getElem?_eq_getElem]
    by_cases hb : cy = b
    · subst hb
      by_cases ha : cx = a
      · subst ha
        simp
      · simp [ha, Ne.symm ha]
    · simp [hb, Ne.symm hb]
  · rw [Framebuffer.pixel_outside _ h, if_neg (by rintro ⟨rfl, rfl⟩; exact h ⟨hx, hy⟩), Framebuffer.pixel_outside _ h]

theorem plot_inside (acc : Blit) {cx cy : Nat} (h : cx < 64 ∧ cy < 32) :
    plot acc cx cy = (acc.1.toggle cx cy, acc.2 || acc.1.pixel cx cy) := if_pos h

theorem plot_outside (acc : Blit) {cx cy : Nat} (h : ¬ (cx < 64 ∧ cy < 32)) : plot acc cx cy = acc := if_neg h

/-- What a plotted bit can do to a pixel. -/
theorem plot_pixel (acc : Blit) (cx cy a b : Nat) :
    (plot acc cx cy).1.pixel a b = (acc.1.pixel a b ^^ decide (a = cx ∧ b = cy ∧ cx < 64 ∧ cy < 32)) := by
  by_cases h : cx < 64 ∧ cy < 32
  · rw [plot_inside acc h, Framebuffer.pixel_toggle _ h.1 h.2]
    by_cases hab : a = cx ∧ b = cy
    · rw [if_pos hab, decide_eq_true ⟨hab.1, hab.2, h.1, h.2⟩, hab.1, hab.2, Bool.xor_true]
    · rw [if_neg hab, decide_eq_false (fun hc => hab ⟨hc.1, hc.2.1⟩), Bool.xor_false]
  · rw [plot_outside acc h, decide_eq_false (fun hc => h hc.2.2), Bool.xor_false]

/-- When a plotted bit collides: it lies in the grid on a pixel that is on (R132). -/
theorem plot_collision (acc : Blit) (cx cy : Nat) : (plot acc cx cy).2 = (acc.2 || acc.1.pixel cx cy) := by
  by_cases h : cx < 64 ∧ cy < 32
  · rw [plot_inside acc h]
  · rw [plot_outside acc h, Framebuffer.pixel_outside _ h, Bool.or_false]

end Sys2Proof.Machine
end

