-- ==== Sys2Proof/Laws/Memory.lean ====
section
/-! SUPPORT. The laws of main memory: what a read gives after a write, and that every memory operation keeps the canonical form. -/

namespace Sys2Proof.Machine

/-! ### The canonical form -/

theorem Memory.wfFrom_cons {lo k : Nat} {b : Byte} {rest : Memory} :
    Memory.wfFrom lo ((k, b) :: rest) = true ↔
      lo ≤ k ∧ k < 4096 ∧ b ≠ Memory.unlisted k ∧ Memory.wfFrom (k + 1) rest = true := by
  simp only [Memory.wfFrom, Bool.and_eq_true, decide_eq_true_eq, and_assoc]
  rfl

@[simp] theorem Memory.wfFrom_nil (lo : Nat) : Memory.wfFrom lo [] = true := rfl

theorem Memory.wfFrom_mono {lo hi : Nat} {m : Memory} (hle : lo ≤ hi) (h : Memory.wfFrom hi m = true) :
    Memory.wfFrom lo m = true := by
  cases m with
  | nil => rfl
  | cons c rest =>
    obtain ⟨k, b⟩ := c
    rw [Memory.wfFrom_cons] at h ⊢
    exact ⟨hle.trans h.1, h.2⟩

/-- Below its first address a canonical memory lists nothing. -/
theorem Memory.read_below {lo a : Nat} {m : Memory} (h : Memory.wfFrom lo m = true) (ha : a < lo) :
    m.read a = Memory.unlisted a := by
  induction m generalizing lo with
  | nil => rfl
  | cons c rest ih =>
    obtain ⟨k, b⟩ := c
    rw [Memory.wfFrom_cons] at h
    rw [Memory.read, if_neg (by omega)]
    exact ih h.2.2.2 (by omega)

/-! ### One byte written -/

theorem Memory.read_write_from {lo a : Nat} {m : Memory} (h : Memory.wfFrom lo m = true) (v : Byte) (b : Nat) :
    (m.write a v).read b = if b = a then v else m.read b := by
  induction m generalizing lo with
  | nil =>
    simp only [Memory.write]
    split
    · next hv =>
      split
      · next hb => subst hb; rw [hv]; rfl
      · rfl
    · simp [Memory.read]
  | cons c rest ih =>
    obtain ⟨k, w⟩ := c
    rw [Memory.wfFrom_cons] at h
    simp only [Memory.write]
    split
    · next hlt =>
      split
      · next hv =>
        by_cases hb : b = a
        · rw [if_pos hb, hb, hv]
          exact Memory.read_below (lo := k) (Memory.wfFrom_cons.2 ⟨le_rfl, h.2⟩) hlt
        · rw [if_neg hb]
      · rw [Memory.read]
    · next hlt =>
      split
      · next hak =>
        split
        · next hv =>
          by_cases hb : b = a
          · rw [if_pos hb, hb, hv]
            exact Memory.read_below h.2.2.2 (by omega)
          · rw [if_neg hb, Memory.read, if_neg (by omega)]
        · rw [Memory.read, Memory.read, hak]
          split <;> rfl
      · next hak =>
        rw [Memory.read, Memory.read, ih h.2.2.2]
        split
        · next hbk => rw [if_neg (by omega)]
        · rfl

/-- "Every cell returns the last value written to it" (R51). -/
theorem Memory.read_write {m : Memory} (h : m.wf = true) (a : Nat) (v : Byte) (b : Nat) :
    (m.write a v).read b = if b = a then v else m.read b :=
  Memory.read_write_from h v b

theorem Memory.wfFrom_write {lo a : Nat} {m : Memory} (h : Memory.wfFrom lo m = true) (hlo : lo ≤ a) (ha : a < 4096)
    (v : Byte) : Memory.wfFrom lo (m.write a v) = true := by
  induction m generalizing lo with
  | nil =>
    simp only [Memory.write]
    split
    · rfl
    · next hv => exact Memory.wfFrom_cons.2 ⟨hlo, ha, hv, rfl⟩
  | cons c rest ih =>
    obtain ⟨k, w⟩ := c
    have hc := Memory.wfFrom_cons.1 h
    simp only [Memory.write]
    split
    · next hlt =>
      split
      · exact h
      · next hv => exact Memory.wfFrom_cons.2 ⟨hlo, ha, hv, Memory.wfFrom_cons.2 ⟨by omega, hc.2⟩⟩
    · next hlt =>
      split
      · next hak =>
        split
        · exact Memory.wfFrom_mono (by omega) hc.2.2.2
        · next hv => exact Memory.wfFrom_cons.2 ⟨hlo, ha, hv, hak ▸ hc.2.2.2⟩
      · next hak =>
        exact Memory.wfFrom_cons.2 ⟨hc.1, hc.2.1, hc.2.2.1, ih hc.2.2.2 (by omega)⟩

/-- A write inside the address space keeps the canonical form. -/
theorem Memory.wf_write {m : Memory} (h : m.wf = true) {a : Nat} (ha : a < 4096) (v : Byte) : (m.write a v).wf = true :=
  Memory.wfFrom_write h (Nat.zero_le a) ha v

/-! ### A run of bytes written -/

theorem Memory.wf_writeBytes {m : Memory} (h : m.wf = true) (bytes : List Byte) {a : Nat} (ha : a + bytes.length ≤ 4096) :
    (m.writeBytes a bytes).wf = true := by
  induction bytes generalizing m a with
  | nil => exact h
  | cons b bs ih =>
    simp only [List.length_cons] at ha
    exact ih (Memory.wf_write h (by omega) b) (by omega)

/-- After a run of writes inside the address space, the bytes of the run read as written and every other byte as before. -/
theorem Memory.read_writeBytes {m : Memory} (h : m.wf = true) (bytes : List Byte) {a : Nat} (ha : a + bytes.length ≤ 4096)
    (c : Nat) :
    (m.writeBytes a bytes).read c = if a ≤ c ∧ c < a + bytes.length then bytes.getD (c - a) 0 else m.read c := by
  induction bytes generalizing m a with
  | nil =>
    simp only [Memory.writeBytes, List.length_nil]
    rw [if_neg (by omega)]
  | cons b bs ih =>
    simp only [List.length_cons] at ha ⊢
    rw [Memory.writeBytes, ih (Memory.wf_write h (by omega) b) (by omega), Memory.read_write h]
    by_cases hc : c = a
    · subst hc
      rw [if_neg (by omega), if_pos rfl, if_pos (by omega), Nat.sub_self]
      rfl
    · by_cases hin : a + 1 ≤ c ∧ c < a + 1 + bs.length
      · rw [if_pos hin, if_pos (by omega), show c - a = (c - (a + 1)) + 1 by omega]
        rfl
      · rw [if_neg hin, if_neg hc, if_neg (by omega)]

theorem memWriteSeg_of_le {m : Memory} {a : Nat} {bytes : List Byte} (h : 4096 ≤ a + bytes.length - 1) :
    memWriteSeg m a bytes = .error (firstOutOfRange a) := if_pos h

theorem memWriteSeg_of_lt {m : Memory} {a : Nat} {bytes : List Byte} (h : a + bytes.length - 1 < 4096) :
    memWriteSeg m a bytes = .ok (m.writeBytes a bytes) := if_neg (Nat.not_le_of_lt h)

/-- What `memWriteSeg` can do: it writes the whole run, and only when the run lies inside the address space. -/
theorem memWriteSeg_ok {m m' : Memory} {a : Nat} {bytes : List Byte} (h : memWriteSeg m a bytes = .ok m') :
    a + bytes.length - 1 < 4096 ∧ m' = m.writeBytes a bytes := by
  unfold memWriteSeg at h
  split at h
  · cases h
  · next hr =>
    cases h
    exact ⟨Nat.lt_of_not_le hr, rfl⟩

/-- When `memWriteSeg` fails, and with which address. -/
theorem memWriteSeg_error {m : Memory} {a : Nat} {bytes : List Byte} {e : Word} (h : memWriteSeg m a bytes = .error e) :
    4096 ≤ a + bytes.length - 1 ∧ e = firstOutOfRange a := by
  unfold memWriteSeg at h
  split at h
  · next hr =>
    cases h
    exact ⟨hr, rfl⟩
  · cases h

/-- `MemWrite(addr, 1, v)` is a run of one byte. -/
theorem memWrite1_eq_seg (m : Memory) (addr : Nat) (v : Byte) : memWrite1 m addr v = memWriteSeg m addr [v] := by
  simp only [memWrite1, memWriteSeg, List.length_singleton, Nat.add_sub_cancel, firstOutOfRange, Memory.writeBytes]
  split
  · next h => rw [Nat.max_eq_left h]
  · rfl

/-- A run of writes that succeeds keeps the canonical form. -/
theorem memWriteSeg_wf {m m' : Memory} {a : Nat} {bytes : List Byte} (hm : m.wf = true) (hb : bytes ≠ [])
    (h : memWriteSeg m a bytes = .ok m') : m'.wf = true := by
  obtain ⟨hr, rfl⟩ := memWriteSeg_ok h
  have := List.length_pos_of_ne_nil hb
  exact Memory.wf_writeBytes hm bytes (by omega)

/-- One write that succeeds keeps the canonical form. -/
theorem memWrite1_wf {m m' : Memory} {a : Nat} {v : Byte} (hm : m.wf = true) (h : memWrite1 m a v = .ok m') : m'.wf = true :=
  memWriteSeg_wf hm (List.cons_ne_nil v []) (memWrite1_eq_seg m a v ▸ h)

/-! ### Reads -/

@[simp] theorem Memory.readBytes_length (m : Memory) (a len : Nat) : (m.readBytes a len).length = len := by
  induction len generalizing a with
  | zero => rfl
  | succ n ih => simp [Memory.readBytes, ih]

theorem Memory.readBytes_getElem? (m : Memory) (a len k : Nat) :
    (m.readBytes a len)[k]? = if k < len then some (m.read (a + k)) else none := by
  induction len generalizing a k with
  | zero => simp [Memory.readBytes]
  | succ n ih =>
    cases k with
    | zero => simp [Memory.readBytes]
    | succ j => simp [Memory.readBytes, ih, Nat.add_assoc, Nat.add_comm 1 j]

theorem memReadSeg_of_le {m : Memory} {a len : Nat} (h : 4096 ≤ a + len - 1) :
    memReadSeg m a len = .error (firstOutOfRange a) := if_pos h

theorem memReadSeg_of_lt {m : Memory} {a len : Nat} (h : a + len - 1 < 4096) :
    memReadSeg m a len = .ok (m.readBytes a len) := if_neg (Nat.not_le_of_lt h)

/-- What `memReadSeg` can do. -/
theorem memReadSeg_ok {m : Memory} {a len : Nat} {bytes : List Byte} (h : memReadSeg m a len = .ok bytes) :
    a + len - 1 < 4096 ∧ bytes = m.readBytes a len := by
  unfold memReadSeg at h
  split at h
  · cases h
  · next hr =>
    cases h
    exact ⟨Nat.lt_of_not_le hr, rfl⟩

/-- When `memReadSeg` fails, and with which address. -/
theorem memReadSeg_error {m : Memory} {a len : Nat} {e : Word} (h : memReadSeg m a len = .error e) :
    4096 ≤ a + len - 1 ∧ e = firstOutOfRange a := by
  unfold memReadSeg at h
  split at h
  · next hr =>
    cases h
    exact ⟨hr, rfl⟩
  · cases h

/-- What the fetch's read can do. -/
theorem memRead2_ok {m : Memory} {a : Nat} {w : Word} (h : memRead2 m a = .ok w) :
    a + 1 < 4096 ∧ w = wordOfBytes (m.read a) (m.read (a + 1)) := by
  unfold memRead2 at h
  split at h
  · cases h
  · next hr =>
    cases h
    exact ⟨Nat.lt_of_not_le hr, rfl⟩

/-- When the fetch's read fails, and with which address. -/
theorem memRead2_error {m : Memory} {a : Nat} {e : Word} (h : memRead2 m a = .error e) :
    4096 ≤ a + 1 ∧ e = firstOutOfRange a := by
  unfold memRead2 at h
  split at h
  · next hr =>
    cases h
    exact ⟨hr, rfl⟩
  · cases h

/-- `max(addr, 4096)` of a 16-bit address is an out-of-range address. -/
theorem firstOutOfRange_toNat {a : Nat} (ha : a < 65536) : (firstOutOfRange a).toNat = max a 4096 := by
  simp only [firstOutOfRange, Config.memSize, BitVec.toNat_ofNat]
  omega

/-! ### Memory after reset -/

theorem wfFrom_imageCells (bytes : List Byte) {lo addr : Nat} (hlo : lo ≤ addr) (h : addr + bytes.length ≤ 4096) :
    Memory.wfFrom lo (imageCells addr bytes) = true := by
  induction bytes generalizing lo addr with
  | nil => rfl
  | cons b bs ih =>
    simp only [List.length_cons] at h
    simp only [imageCells]
    split
    · exact ih (by omega) (by omega)
    · next hb => exact Memory.wfFrom_cons.2 ⟨hlo, by omega, hb, ih le_rfl (by omega)⟩

theorem read_imageCells (bytes : List Byte) (addr a : Nat) :
    (imageCells addr bytes).read a =
      if addr ≤ a ∧ a < addr + bytes.length then bytes.getD (a - addr) 0 else Memory.unlisted a := by
  induction bytes generalizing addr with
  | nil =>
    simp only [imageCells, List.length_nil]
    rw [if_neg (by omega)]
    rfl
  | cons b bs ih =>
    have step : (imageCells addr (b :: bs)).read a = if a = addr then b else (imageCells (addr + 1) bs).read a := by
      simp only [imageCells]
      split
      · next hb =>
        split
        · next ha =>
          rw [ih, if_neg (by omega), ha, hb]
        · rfl
      · rfl
    rw [step, ih]
    simp only [List.length_cons]
    by_cases ha : a = addr
    · subst ha
      rw [if_pos rfl, if_pos (by omega), Nat.sub_self]
      rfl
    · rw [if_neg ha]
      by_cases hin : addr + 1 ≤ a ∧ a < addr + 1 + bs.length
      · rw [if_pos hin, if_pos (by omega), show a - addr = (a - (addr + 1)) + 1 by omega]
        rfl
      · rw [if_neg hin, if_neg (by omega)]

/-- The memory that reset makes is canonical. -/
theorem wf_resetMemory {image : List Byte} (h : image.length ≤ 3584) : (resetMemory image).wf = true :=
  wfFrom_imageCells image (Nat.zero_le _) (by simp only [Config.programBase]; omega)

/-- So is the memory of the machine right after reset. -/
theorem wf_reset_mem : State.reset.mem.wf = true := rfl

end Sys2Proof.Machine
end

