-- ==== Sys2Proof/Laws/State.lean ====
section
/-! SUPPORT. One lemma per field per update of the state, so that no later proof unfolds a record update; and what reading a register
gives after each write of one. -/

namespace Sys2Proof.Machine

@[simp] theorem State.setReg_regs (s : State) (r : Reg) (v : Byte) : (s.setReg r v).regs = s.regs.set r v := rfl
@[simp] theorem State.setReg_pc (s : State) (r : Reg) (v : Byte) : (s.setReg r v).pc = s.pc := rfl
@[simp] theorem State.setReg_i (s : State) (r : Reg) (v : Byte) : (s.setReg r v).i = s.i := rfl
@[simp] theorem State.setReg_dt (s : State) (r : Reg) (v : Byte) : (s.setReg r v).dt = s.dt := rfl
@[simp] theorem State.setReg_st (s : State) (r : Reg) (v : Byte) : (s.setReg r v).st = s.st := rfl
@[simp] theorem State.setReg_stack (s : State) (r : Reg) (v : Byte) : (s.setReg r v).stack = s.stack := rfl
@[simp] theorem State.setReg_mem (s : State) (r : Reg) (v : Byte) : (s.setReg r v).mem = s.mem := rfl
@[simp] theorem State.setReg_fb (s : State) (r : Reg) (v : Byte) : (s.setReg r v).fb = s.fb := rfl
@[simp] theorem State.setReg_key (s : State) (r : Reg) (v : Byte) : (s.setReg r v).key = s.key := rfl
@[simp] theorem State.setReg_status (s : State) (r : Reg) (v : Byte) : (s.setReg r v).status = s.status := rfl
@[simp] theorem State.setReg_dch (s : State) (r : Reg) (v : Byte) : (s.setReg r v).dch = s.dch := rfl
@[simp] theorem State.setReg_image (s : State) (r : Reg) (v : Byte) : (s.setReg r v).image = s.image := rfl
@[simp] theorem State.setReg_cfg (s : State) (r : Reg) (v : Byte) : (s.setReg r v).cfg = s.cfg := rfl
@[simp] theorem State.setReg_rnd (s : State) (r : Reg) (v : Byte) : (s.setReg r v).rnd = s.rnd := rfl
@[simp] theorem State.setReg_ticks (s : State) (r : Reg) (v : Byte) : (s.setReg r v).ticks = s.ticks := rfl
@[simp] theorem State.setReg_pending (s : State) (r : Reg) (v : Byte) : (s.setReg r v).pending = s.pending := rfl

@[simp] theorem State.setPc_regs (s : State) (p : Word) : (s.setPc p).regs = s.regs := rfl
@[simp] theorem State.setPc_pc (s : State) (p : Word) : (s.setPc p).pc = p := rfl
@[simp] theorem State.setPc_i (s : State) (p : Word) : (s.setPc p).i = s.i := rfl
@[simp] theorem State.setPc_dt (s : State) (p : Word) : (s.setPc p).dt = s.dt := rfl
@[simp] theorem State.setPc_st (s : State) (p : Word) : (s.setPc p).st = s.st := rfl
@[simp] theorem State.setPc_stack (s : State) (p : Word) : (s.setPc p).stack = s.stack := rfl
@[simp] theorem State.setPc_mem (s : State) (p : Word) : (s.setPc p).mem = s.mem := rfl
@[simp] theorem State.setPc_fb (s : State) (p : Word) : (s.setPc p).fb = s.fb := rfl
@[simp] theorem State.setPc_key (s : State) (p : Word) : (s.setPc p).key = s.key := rfl
@[simp] theorem State.setPc_status (s : State) (p : Word) : (s.setPc p).status = s.status := rfl
@[simp] theorem State.setPc_dch (s : State) (p : Word) : (s.setPc p).dch = s.dch := rfl
@[simp] theorem State.setPc_image (s : State) (p : Word) : (s.setPc p).image = s.image := rfl
@[simp] theorem State.setPc_cfg (s : State) (p : Word) : (s.setPc p).cfg = s.cfg := rfl
@[simp] theorem State.setPc_rnd (s : State) (p : Word) : (s.setPc p).rnd = s.rnd := rfl
@[simp] theorem State.setPc_ticks (s : State) (p : Word) : (s.setPc p).ticks = s.ticks := rfl
@[simp] theorem State.setPc_pending (s : State) (p : Word) : (s.setPc p).pending = s.pending := rfl

@[simp] theorem State.advance_regs (s : State) : (s.advance).regs = s.regs := rfl
@[simp] theorem State.advance_pc (s : State) : (s.advance).pc = s.pc + 2 := rfl
@[simp] theorem State.advance_i (s : State) : (s.advance).i = s.i := rfl
@[simp] theorem State.advance_dt (s : State) : (s.advance).dt = s.dt := rfl
@[simp] theorem State.advance_st (s : State) : (s.advance).st = s.st := rfl
@[simp] theorem State.advance_stack (s : State) : (s.advance).stack = s.stack := rfl
@[simp] theorem State.advance_mem (s : State) : (s.advance).mem = s.mem := rfl
@[simp] theorem State.advance_fb (s : State) : (s.advance).fb = s.fb := rfl
@[simp] theorem State.advance_key (s : State) : (s.advance).key = s.key := rfl
@[simp] theorem State.advance_status (s : State) : (s.advance).status = s.status := rfl
@[simp] theorem State.advance_dch (s : State) : (s.advance).dch = s.dch := rfl
@[simp] theorem State.advance_image (s : State) : (s.advance).image = s.image := rfl
@[simp] theorem State.advance_cfg (s : State) : (s.advance).cfg = s.cfg := rfl
@[simp] theorem State.advance_rnd (s : State) : (s.advance).rnd = s.rnd := rfl
@[simp] theorem State.advance_ticks (s : State) : (s.advance).ticks = s.ticks := rfl
@[simp] theorem State.advance_pending (s : State) : (s.advance).pending = s.pending := rfl

@[simp] theorem State.skip_regs (s : State) : (s.skip).regs = s.regs := rfl
@[simp] theorem State.skip_pc (s : State) : (s.skip).pc = s.pc + 4 := rfl
@[simp] theorem State.skip_i (s : State) : (s.skip).i = s.i := rfl
@[simp] theorem State.skip_dt (s : State) : (s.skip).dt = s.dt := rfl
@[simp] theorem State.skip_st (s : State) : (s.skip).st = s.st := rfl
@[simp] theorem State.skip_stack (s : State) : (s.skip).stack = s.stack := rfl
@[simp] theorem State.skip_mem (s : State) : (s.skip).mem = s.mem := rfl
@[simp] theorem State.skip_fb (s : State) : (s.skip).fb = s.fb := rfl
@[simp] theorem State.skip_key (s : State) : (s.skip).key = s.key := rfl
@[simp] theorem State.skip_status (s : State) : (s.skip).status = s.status := rfl
@[simp] theorem State.skip_dch (s : State) : (s.skip).dch = s.dch := rfl
@[simp] theorem State.skip_image (s : State) : (s.skip).image = s.image := rfl
@[simp] theorem State.skip_cfg (s : State) : (s.skip).cfg = s.cfg := rfl
@[simp] theorem State.skip_rnd (s : State) : (s.skip).rnd = s.rnd := rfl
@[simp] theorem State.skip_ticks (s : State) : (s.skip).ticks = s.ticks := rfl
@[simp] theorem State.skip_pending (s : State) : (s.skip).pending = s.pending := rfl

@[simp] theorem State.setI_regs (s : State) (v : Word) : (s.setI v).regs = s.regs := rfl
@[simp] theorem State.setI_pc (s : State) (v : Word) : (s.setI v).pc = s.pc := rfl
@[simp] theorem State.setI_i (s : State) (v : Word) : (s.setI v).i = v := rfl
@[simp] theorem State.setI_dt (s : State) (v : Word) : (s.setI v).dt = s.dt := rfl
@[simp] theorem State.setI_st (s : State) (v : Word) : (s.setI v).st = s.st := rfl
@[simp] theorem State.setI_stack (s : State) (v : Word) : (s.setI v).stack = s.stack := rfl
@[simp] theorem State.setI_mem (s : State) (v : Word) : (s.setI v).mem = s.mem := rfl
@[simp] theorem State.setI_fb (s : State) (v : Word) : (s.setI v).fb = s.fb := rfl
@[simp] theorem State.setI_key (s : State) (v : Word) : (s.setI v).key = s.key := rfl
@[simp] theorem State.setI_status (s : State) (v : Word) : (s.setI v).status = s.status := rfl
@[simp] theorem State.setI_dch (s : State) (v : Word) : (s.setI v).dch = s.dch := rfl
@[simp] theorem State.setI_image (s : State) (v : Word) : (s.setI v).image = s.image := rfl
@[simp] theorem State.setI_cfg (s : State) (v : Word) : (s.setI v).cfg = s.cfg := rfl
@[simp] theorem State.setI_rnd (s : State) (v : Word) : (s.setI v).rnd = s.rnd := rfl
@[simp] theorem State.setI_ticks (s : State) (v : Word) : (s.setI v).ticks = s.ticks := rfl
@[simp] theorem State.setI_pending (s : State) (v : Word) : (s.setI v).pending = s.pending := rfl

@[simp] theorem State.setDt_regs (s : State) (v : Byte) : (s.setDt v).regs = s.regs := rfl
@[simp] theorem State.setDt_pc (s : State) (v : Byte) : (s.setDt v).pc = s.pc := rfl
@[simp] theorem State.setDt_i (s : State) (v : Byte) : (s.setDt v).i = s.i := rfl
@[simp] theorem State.setDt_dt (s : State) (v : Byte) : (s.setDt v).dt = v := rfl
@[simp] theorem State.setDt_st (s : State) (v : Byte) : (s.setDt v).st = s.st := rfl
@[simp] theorem State.setDt_stack (s : State) (v : Byte) : (s.setDt v).stack = s.stack := rfl
@[simp] theorem State.setDt_mem (s : State) (v : Byte) : (s.setDt v).mem = s.mem := rfl
@[simp] theorem State.setDt_fb (s : State) (v : Byte) : (s.setDt v).fb = s.fb := rfl
@[simp] theorem State.setDt_key (s : State) (v : Byte) : (s.setDt v).key = s.key := rfl
@[simp] theorem State.setDt_status (s : State) (v : Byte) : (s.setDt v).status = s.status := rfl
@[simp] theorem State.setDt_dch (s : State) (v : Byte) : (s.setDt v).dch = s.dch := rfl
@[simp] theorem State.setDt_image (s : State) (v : Byte) : (s.setDt v).image = s.image := rfl
@[simp] theorem State.setDt_cfg (s : State) (v : Byte) : (s.setDt v).cfg = s.cfg := rfl
@[simp] theorem State.setDt_rnd (s : State) (v : Byte) : (s.setDt v).rnd = s.rnd := rfl
@[simp] theorem State.setDt_ticks (s : State) (v : Byte) : (s.setDt v).ticks = s.ticks := rfl
@[simp] theorem State.setDt_pending (s : State) (v : Byte) : (s.setDt v).pending = s.pending := rfl

@[simp] theorem State.setSt_regs (s : State) (v : Byte) : (s.setSt v).regs = s.regs := rfl
@[simp] theorem State.setSt_pc (s : State) (v : Byte) : (s.setSt v).pc = s.pc := rfl
@[simp] theorem State.setSt_i (s : State) (v : Byte) : (s.setSt v).i = s.i := rfl
@[simp] theorem State.setSt_dt (s : State) (v : Byte) : (s.setSt v).dt = s.dt := rfl
@[simp] theorem State.setSt_st (s : State) (v : Byte) : (s.setSt v).st = v := rfl
@[simp] theorem State.setSt_stack (s : State) (v : Byte) : (s.setSt v).stack = s.stack := rfl
@[simp] theorem State.setSt_mem (s : State) (v : Byte) : (s.setSt v).mem = s.mem := rfl
@[simp] theorem State.setSt_fb (s : State) (v : Byte) : (s.setSt v).fb = s.fb := rfl
@[simp] theorem State.setSt_key (s : State) (v : Byte) : (s.setSt v).key = s.key := rfl
@[simp] theorem State.setSt_status (s : State) (v : Byte) : (s.setSt v).status = s.status := rfl
@[simp] theorem State.setSt_dch (s : State) (v : Byte) : (s.setSt v).dch = s.dch := rfl
@[simp] theorem State.setSt_image (s : State) (v : Byte) : (s.setSt v).image = s.image := rfl
@[simp] theorem State.setSt_cfg (s : State) (v : Byte) : (s.setSt v).cfg = s.cfg := rfl
@[simp] theorem State.setSt_rnd (s : State) (v : Byte) : (s.setSt v).rnd = s.rnd := rfl
@[simp] theorem State.setSt_ticks (s : State) (v : Byte) : (s.setSt v).ticks = s.ticks := rfl
@[simp] theorem State.setSt_pending (s : State) (v : Byte) : (s.setSt v).pending = s.pending := rfl

@[simp] theorem State.setMem_regs (s : State) (m : Memory) : (s.setMem m).regs = s.regs := rfl
@[simp] theorem State.setMem_pc (s : State) (m : Memory) : (s.setMem m).pc = s.pc := rfl
@[simp] theorem State.setMem_i (s : State) (m : Memory) : (s.setMem m).i = s.i := rfl
@[simp] theorem State.setMem_dt (s : State) (m : Memory) : (s.setMem m).dt = s.dt := rfl
@[simp] theorem State.setMem_st (s : State) (m : Memory) : (s.setMem m).st = s.st := rfl
@[simp] theorem State.setMem_stack (s : State) (m : Memory) : (s.setMem m).stack = s.stack := rfl
@[simp] theorem State.setMem_mem (s : State) (m : Memory) : (s.setMem m).mem = m := rfl
@[simp] theorem State.setMem_fb (s : State) (m : Memory) : (s.setMem m).fb = s.fb := rfl
@[simp] theorem State.setMem_key (s : State) (m : Memory) : (s.setMem m).key = s.key := rfl
@[simp] theorem State.setMem_status (s : State) (m : Memory) : (s.setMem m).status = s.status := rfl
@[simp] theorem State.setMem_dch (s : State) (m : Memory) : (s.setMem m).dch = s.dch := rfl
@[simp] theorem State.setMem_image (s : State) (m : Memory) : (s.setMem m).image = s.image := rfl
@[simp] theorem State.setMem_cfg (s : State) (m : Memory) : (s.setMem m).cfg = s.cfg := rfl
@[simp] theorem State.setMem_rnd (s : State) (m : Memory) : (s.setMem m).rnd = s.rnd := rfl
@[simp] theorem State.setMem_ticks (s : State) (m : Memory) : (s.setMem m).ticks = s.ticks := rfl
@[simp] theorem State.setMem_pending (s : State) (m : Memory) : (s.setMem m).pending = s.pending := rfl

@[simp] theorem State.setFb_regs (s : State) (f : Framebuffer) : (s.setFb f).regs = s.regs := rfl
@[simp] theorem State.setFb_pc (s : State) (f : Framebuffer) : (s.setFb f).pc = s.pc := rfl
@[simp] theorem State.setFb_i (s : State) (f : Framebuffer) : (s.setFb f).i = s.i := rfl
@[simp] theorem State.setFb_dt (s : State) (f : Framebuffer) : (s.setFb f).dt = s.dt := rfl
@[simp] theorem State.setFb_st (s : State) (f : Framebuffer) : (s.setFb f).st = s.st := rfl
@[simp] theorem State.setFb_stack (s : State) (f : Framebuffer) : (s.setFb f).stack = s.stack := rfl
@[simp] theorem State.setFb_mem (s : State) (f : Framebuffer) : (s.setFb f).mem = s.mem := rfl
@[simp] theorem State.setFb_fb (s : State) (f : Framebuffer) : (s.setFb f).fb = f := rfl
@[simp] theorem State.setFb_key (s : State) (f : Framebuffer) : (s.setFb f).key = s.key := rfl
@[simp] theorem State.setFb_status (s : State) (f : Framebuffer) : (s.setFb f).status = s.status := rfl
@[simp] theorem State.setFb_dch (s : State) (f : Framebuffer) : (s.setFb f).dch = s.dch := rfl
@[simp] theorem State.setFb_image (s : State) (f : Framebuffer) : (s.setFb f).image = s.image := rfl
@[simp] theorem State.setFb_cfg (s : State) (f : Framebuffer) : (s.setFb f).cfg = s.cfg := rfl
@[simp] theorem State.setFb_rnd (s : State) (f : Framebuffer) : (s.setFb f).rnd = s.rnd := rfl
@[simp] theorem State.setFb_ticks (s : State) (f : Framebuffer) : (s.setFb f).ticks = s.ticks := rfl
@[simp] theorem State.setFb_pending (s : State) (f : Framebuffer) : (s.setFb f).pending = s.pending := rfl

@[simp] theorem State.setDch_regs (s : State) (b : Bool) : (s.setDch b).regs = s.regs := rfl
@[simp] theorem State.setDch_pc (s : State) (b : Bool) : (s.setDch b).pc = s.pc := rfl
@[simp] theorem State.setDch_i (s : State) (b : Bool) : (s.setDch b).i = s.i := rfl
@[simp] theorem State.setDch_dt (s : State) (b : Bool) : (s.setDch b).dt = s.dt := rfl
@[simp] theorem State.setDch_st (s : State) (b : Bool) : (s.setDch b).st = s.st := rfl
@[simp] theorem State.setDch_stack (s : State) (b : Bool) : (s.setDch b).stack = s.stack := rfl
@[simp] theorem State.setDch_mem (s : State) (b : Bool) : (s.setDch b).mem = s.mem := rfl
@[simp] theorem State.setDch_fb (s : State) (b : Bool) : (s.setDch b).fb = s.fb := rfl
@[simp] theorem State.setDch_key (s : State) (b : Bool) : (s.setDch b).key = s.key := rfl
@[simp] theorem State.setDch_status (s : State) (b : Bool) : (s.setDch b).status = s.status := rfl
@[simp] theorem State.setDch_dch (s : State) (b : Bool) : (s.setDch b).dch = b := rfl
@[simp] theorem State.setDch_image (s : State) (b : Bool) : (s.setDch b).image = s.image := rfl
@[simp] theorem State.setDch_cfg (s : State) (b : Bool) : (s.setDch b).cfg = s.cfg := rfl
@[simp] theorem State.setDch_rnd (s : State) (b : Bool) : (s.setDch b).rnd = s.rnd := rfl
@[simp] theorem State.setDch_ticks (s : State) (b : Bool) : (s.setDch b).ticks = s.ticks := rfl
@[simp] theorem State.setDch_pending (s : State) (b : Bool) : (s.setDch b).pending = s.pending := rfl

@[simp] theorem State.setStack_regs (s : State) (l : List Word) : (s.setStack l).regs = s.regs := rfl
@[simp] theorem State.setStack_pc (s : State) (l : List Word) : (s.setStack l).pc = s.pc := rfl
@[simp] theorem State.setStack_i (s : State) (l : List Word) : (s.setStack l).i = s.i := rfl
@[simp] theorem State.setStack_dt (s : State) (l : List Word) : (s.setStack l).dt = s.dt := rfl
@[simp] theorem State.setStack_st (s : State) (l : List Word) : (s.setStack l).st = s.st := rfl
@[simp] theorem State.setStack_stack (s : State) (l : List Word) : (s.setStack l).stack = l := rfl
@[simp] theorem State.setStack_mem (s : State) (l : List Word) : (s.setStack l).mem = s.mem := rfl
@[simp] theorem State.setStack_fb (s : State) (l : List Word) : (s.setStack l).fb = s.fb := rfl
@[simp] theorem State.setStack_key (s : State) (l : List Word) : (s.setStack l).key = s.key := rfl
@[simp] theorem State.setStack_status (s : State) (l : List Word) : (s.setStack l).status = s.status := rfl
@[simp] theorem State.setStack_dch (s : State) (l : List Word) : (s.setStack l).dch = s.dch := rfl
@[simp] theorem State.setStack_image (s : State) (l : List Word) : (s.setStack l).image = s.image := rfl
@[simp] theorem State.setStack_cfg (s : State) (l : List Word) : (s.setStack l).cfg = s.cfg := rfl
@[simp] theorem State.setStack_rnd (s : State) (l : List Word) : (s.setStack l).rnd = s.rnd := rfl
@[simp] theorem State.setStack_ticks (s : State) (l : List Word) : (s.setStack l).ticks = s.ticks := rfl
@[simp] theorem State.setStack_pending (s : State) (l : List Word) : (s.setStack l).pending = s.pending := rfl

@[simp] theorem State.setRegsFrom0_regs (s : State) (l : List Byte) : (s.setRegsFrom0 l).regs = loadRegs s.regs 0 l := rfl
@[simp] theorem State.setRegsFrom0_pc (s : State) (l : List Byte) : (s.setRegsFrom0 l).pc = s.pc := rfl
@[simp] theorem State.setRegsFrom0_i (s : State) (l : List Byte) : (s.setRegsFrom0 l).i = s.i := rfl
@[simp] theorem State.setRegsFrom0_dt (s : State) (l : List Byte) : (s.setRegsFrom0 l).dt = s.dt := rfl
@[simp] theorem State.setRegsFrom0_st (s : State) (l : List Byte) : (s.setRegsFrom0 l).st = s.st := rfl
@[simp] theorem State.setRegsFrom0_stack (s : State) (l : List Byte) : (s.setRegsFrom0 l).stack = s.stack := rfl
@[simp] theorem State.setRegsFrom0_mem (s : State) (l : List Byte) : (s.setRegsFrom0 l).mem = s.mem := rfl
@[simp] theorem State.setRegsFrom0_fb (s : State) (l : List Byte) : (s.setRegsFrom0 l).fb = s.fb := rfl
@[simp] theorem State.setRegsFrom0_key (s : State) (l : List Byte) : (s.setRegsFrom0 l).key = s.key := rfl
@[simp] theorem State.setRegsFrom0_status (s : State) (l : List Byte) : (s.setRegsFrom0 l).status = s.status := rfl
@[simp] theorem State.setRegsFrom0_dch (s : State) (l : List Byte) : (s.setRegsFrom0 l).dch = s.dch := rfl
@[simp] theorem State.setRegsFrom0_image (s : State) (l : List Byte) : (s.setRegsFrom0 l).image = s.image := rfl
@[simp] theorem State.setRegsFrom0_cfg (s : State) (l : List Byte) : (s.setRegsFrom0 l).cfg = s.cfg := rfl
@[simp] theorem State.setRegsFrom0_rnd (s : State) (l : List Byte) : (s.setRegsFrom0 l).rnd = s.rnd := rfl
@[simp] theorem State.setRegsFrom0_ticks (s : State) (l : List Byte) : (s.setRegsFrom0 l).ticks = s.ticks := rfl
@[simp] theorem State.setRegsFrom0_pending (s : State) (l : List Byte) : (s.setRegsFrom0 l).pending = s.pending := rfl

@[simp] theorem State.setVF_regs (s : State) (f : Bool) : (s.setVF f).regs = s.regs.set VF (flagByte f) := rfl
@[simp] theorem State.setVF_pc (s : State) (f : Bool) : (s.setVF f).pc = s.pc := rfl
@[simp] theorem State.setVF_i (s : State) (f : Bool) : (s.setVF f).i = s.i := rfl
@[simp] theorem State.setVF_dt (s : State) (f : Bool) : (s.setVF f).dt = s.dt := rfl
@[simp] theorem State.setVF_st (s : State) (f : Bool) : (s.setVF f).st = s.st := rfl
@[simp] theorem State.setVF_stack (s : State) (f : Bool) : (s.setVF f).stack = s.stack := rfl
@[simp] theorem State.setVF_mem (s : State) (f : Bool) : (s.setVF f).mem = s.mem := rfl
@[simp] theorem State.setVF_fb (s : State) (f : Bool) : (s.setVF f).fb = s.fb := rfl
@[simp] theorem State.setVF_key (s : State) (f : Bool) : (s.setVF f).key = s.key := rfl
@[simp] theorem State.setVF_status (s : State) (f : Bool) : (s.setVF f).status = s.status := rfl
@[simp] theorem State.setVF_dch (s : State) (f : Bool) : (s.setVF f).dch = s.dch := rfl
@[simp] theorem State.setVF_image (s : State) (f : Bool) : (s.setVF f).image = s.image := rfl
@[simp] theorem State.setVF_cfg (s : State) (f : Bool) : (s.setVF f).cfg = s.cfg := rfl
@[simp] theorem State.setVF_rnd (s : State) (f : Bool) : (s.setVF f).rnd = s.rnd := rfl
@[simp] theorem State.setVF_ticks (s : State) (f : Bool) : (s.setVF f).ticks = s.ticks := rfl
@[simp] theorem State.setVF_pending (s : State) (f : Bool) : (s.setVF f).pending = s.pending := rfl

@[simp] theorem State.beginTick_regs (s : State) (r : Option Byte) : (s.beginTick r).regs = s.regs := rfl
@[simp] theorem State.beginTick_pc (s : State) (r : Option Byte) : (s.beginTick r).pc = s.pc := rfl
@[simp] theorem State.beginTick_i (s : State) (r : Option Byte) : (s.beginTick r).i = s.i := rfl
@[simp] theorem State.beginTick_dt (s : State) (r : Option Byte) : (s.beginTick r).dt = s.dt := rfl
@[simp] theorem State.beginTick_st (s : State) (r : Option Byte) : (s.beginTick r).st = s.st := rfl
@[simp] theorem State.beginTick_stack (s : State) (r : Option Byte) : (s.beginTick r).stack = s.stack := rfl
@[simp] theorem State.beginTick_mem (s : State) (r : Option Byte) : (s.beginTick r).mem = s.mem := rfl
@[simp] theorem State.beginTick_fb (s : State) (r : Option Byte) : (s.beginTick r).fb = s.fb := rfl
@[simp] theorem State.beginTick_key (s : State) (r : Option Byte) : (s.beginTick r).key = s.key := rfl
@[simp] theorem State.beginTick_status (s : State) (r : Option Byte) : (s.beginTick r).status = s.status := rfl
@[simp] theorem State.beginTick_dch (s : State) (r : Option Byte) : (s.beginTick r).dch = false := rfl
@[simp] theorem State.beginTick_image (s : State) (r : Option Byte) : (s.beginTick r).image = s.image := rfl
@[simp] theorem State.beginTick_cfg (s : State) (r : Option Byte) : (s.beginTick r).cfg = s.cfg := rfl
@[simp] theorem State.beginTick_rnd (s : State) (r : Option Byte) : (s.beginTick r).rnd = r := rfl
@[simp] theorem State.beginTick_ticks (s : State) (r : Option Byte) : (s.beginTick r).ticks = s.ticks + 1 := rfl
@[simp] theorem State.beginTick_pending (s : State) (r : Option Byte) : (s.beginTick r).pending = s.pending := rfl

@[simp] theorem betweenTicks_regs (s : State) (n : Nat) (k : Option (Option KeyCode)) : (betweenTicks n k s).regs = s.regs := rfl
@[simp] theorem betweenTicks_pc (s : State) (n : Nat) (k : Option (Option KeyCode)) : (betweenTicks n k s).pc = s.pc := rfl
@[simp] theorem betweenTicks_i (s : State) (n : Nat) (k : Option (Option KeyCode)) : (betweenTicks n k s).i = s.i := rfl
@[simp] theorem betweenTicks_stack (s : State) (n : Nat) (k : Option (Option KeyCode)) : (betweenTicks n k s).stack = s.stack := rfl
@[simp] theorem betweenTicks_mem (s : State) (n : Nat) (k : Option (Option KeyCode)) : (betweenTicks n k s).mem = s.mem := rfl
@[simp] theorem betweenTicks_fb (s : State) (n : Nat) (k : Option (Option KeyCode)) : (betweenTicks n k s).fb = s.fb := rfl
@[simp] theorem betweenTicks_status (s : State) (n : Nat) (k : Option (Option KeyCode)) : (betweenTicks n k s).status = s.status := rfl
@[simp] theorem betweenTicks_dch (s : State) (n : Nat) (k : Option (Option KeyCode)) : (betweenTicks n k s).dch = s.dch := rfl
@[simp] theorem betweenTicks_image (s : State) (n : Nat) (k : Option (Option KeyCode)) : (betweenTicks n k s).image = s.image := rfl
@[simp] theorem betweenTicks_cfg (s : State) (n : Nat) (k : Option (Option KeyCode)) : (betweenTicks n k s).cfg = s.cfg := rfl
@[simp] theorem betweenTicks_rnd (s : State) (n : Nat) (k : Option (Option KeyCode)) : (betweenTicks n k s).rnd = s.rnd := rfl
@[simp] theorem betweenTicks_ticks (s : State) (n : Nat) (k : Option (Option KeyCode)) : (betweenTicks n k s).ticks = s.ticks := rfl
@[simp] theorem betweenTicks_pending (s : State) (n : Nat) (k : Option (Option KeyCode)) : (betweenTicks n k s).pending = s.pending := rfl
@[simp] theorem betweenTicks_dt (s : State) (n : Nat) (k : Option (Option KeyCode)) : (betweenTicks n k s).dt = countDownBy n s.dt := rfl
@[simp] theorem betweenTicks_st (s : State) (n : Nat) (k : Option (Option KeyCode)) : (betweenTicks n k s).st = countDownBy n s.st := rfl
@[simp] theorem betweenTicks_key (s : State) (n : Nat) (k : Option (Option KeyCode)) : (betweenTicks n k s).key = k.getD s.key := rfl

@[simp] theorem State.freeHost_regs (s : State) : s.freeHost.regs = s.regs := rfl
@[simp] theorem State.freeHost_pc (s : State) : s.freeHost.pc = s.pc := rfl
@[simp] theorem State.freeHost_i (s : State) : s.freeHost.i = s.i := rfl
@[simp] theorem State.freeHost_stack (s : State) : s.freeHost.stack = s.stack := rfl
@[simp] theorem State.freeHost_mem (s : State) : s.freeHost.mem = s.mem := rfl
@[simp] theorem State.freeHost_fb (s : State) : s.freeHost.fb = s.fb := rfl
@[simp] theorem State.freeHost_status (s : State) : s.freeHost.status = s.status := rfl
@[simp] theorem State.freeHost_dch (s : State) : s.freeHost.dch = s.dch := rfl
@[simp] theorem State.freeHost_image (s : State) : s.freeHost.image = s.image := rfl
@[simp] theorem State.freeHost_cfg (s : State) : s.freeHost.cfg = s.cfg := rfl
@[simp] theorem State.freeHost_rnd (s : State) : s.freeHost.rnd = s.rnd := rfl
@[simp] theorem State.freeHost_ticks (s : State) : s.freeHost.ticks = s.ticks := rfl
@[simp] theorem State.freeHost_pending (s : State) : s.freeHost.pending = s.pending := rfl

@[simp] theorem State.faulted_regs (s : State) (c : FaultCause) (w : Word) : (s.faulted c w).regs = s.regs := rfl
@[simp] theorem State.faulted_pc (s : State) (c : FaultCause) (w : Word) : (s.faulted c w).pc = s.pc := rfl
@[simp] theorem State.faulted_i (s : State) (c : FaultCause) (w : Word) : (s.faulted c w).i = s.i := rfl
@[simp] theorem State.faulted_dt (s : State) (c : FaultCause) (w : Word) : (s.faulted c w).dt = s.dt := rfl
@[simp] theorem State.faulted_st (s : State) (c : FaultCause) (w : Word) : (s.faulted c w).st = s.st := rfl
@[simp] theorem State.faulted_stack (s : State) (c : FaultCause) (w : Word) : (s.faulted c w).stack = s.stack := rfl
@[simp] theorem State.faulted_mem (s : State) (c : FaultCause) (w : Word) : (s.faulted c w).mem = s.mem := rfl
@[simp] theorem State.faulted_fb (s : State) (c : FaultCause) (w : Word) : (s.faulted c w).fb = s.fb := rfl
@[simp] theorem State.faulted_key (s : State) (c : FaultCause) (w : Word) : (s.faulted c w).key = s.key := rfl
@[simp] theorem State.faulted_status (s : State) (c : FaultCause) (w : Word) : (s.faulted c w).status = .error c w := rfl
@[simp] theorem State.faulted_dch (s : State) (c : FaultCause) (w : Word) : (s.faulted c w).dch = false := rfl
@[simp] theorem State.faulted_image (s : State) (c : FaultCause) (w : Word) : (s.faulted c w).image = s.image := rfl
@[simp] theorem State.faulted_cfg (s : State) (c : FaultCause) (w : Word) : (s.faulted c w).cfg = s.cfg := rfl
@[simp] theorem State.faulted_rnd (s : State) (c : FaultCause) (w : Word) : (s.faulted c w).rnd = s.rnd := rfl
@[simp] theorem State.faulted_ticks (s : State) (c : FaultCause) (w : Word) : (s.faulted c w).ticks = s.ticks := rfl
@[simp] theorem State.faulted_pending (s : State) (c : FaultCause) (w : Word) : (s.faulted c w).pending = s.pending := rfl

@[simp] theorem State.skipIf_regs (s : State) (c : Bool) : (s.skipIf c).regs = s.regs := by cases c <;> rfl
@[simp] theorem State.skipIf_i (s : State) (c : Bool) : (s.skipIf c).i = s.i := by cases c <;> rfl
@[simp] theorem State.skipIf_dt (s : State) (c : Bool) : (s.skipIf c).dt = s.dt := by cases c <;> rfl
@[simp] theorem State.skipIf_st (s : State) (c : Bool) : (s.skipIf c).st = s.st := by cases c <;> rfl
@[simp] theorem State.skipIf_stack (s : State) (c : Bool) : (s.skipIf c).stack = s.stack := by cases c <;> rfl
@[simp] theorem State.skipIf_mem (s : State) (c : Bool) : (s.skipIf c).mem = s.mem := by cases c <;> rfl
@[simp] theorem State.skipIf_fb (s : State) (c : Bool) : (s.skipIf c).fb = s.fb := by cases c <;> rfl
@[simp] theorem State.skipIf_key (s : State) (c : Bool) : (s.skipIf c).key = s.key := by cases c <;> rfl
@[simp] theorem State.skipIf_status (s : State) (c : Bool) : (s.skipIf c).status = s.status := by cases c <;> rfl
@[simp] theorem State.skipIf_dch (s : State) (c : Bool) : (s.skipIf c).dch = s.dch := by cases c <;> rfl
@[simp] theorem State.skipIf_image (s : State) (c : Bool) : (s.skipIf c).image = s.image := by cases c <;> rfl
@[simp] theorem State.skipIf_cfg (s : State) (c : Bool) : (s.skipIf c).cfg = s.cfg := by cases c <;> rfl
@[simp] theorem State.skipIf_rnd (s : State) (c : Bool) : (s.skipIf c).rnd = s.rnd := by cases c <;> rfl
@[simp] theorem State.skipIf_ticks (s : State) (c : Bool) : (s.skipIf c).ticks = s.ticks := by cases c <;> rfl
@[simp] theorem State.skipIf_pending (s : State) (c : Bool) : (s.skipIf c).pending = s.pending := by cases c <;> rfl
@[simp] theorem State.skipIf_pc (s : State) (c : Bool) : (s.skipIf c).pc = if c then s.pc + 4 else s.pc + 2 := by
  cases c <;> rfl

/-! ### Reading a register after a write -/

theorem State.reg_ext {s t : State} (h : ∀ r, t.reg r = s.reg r) : t.regs = s.regs :=
  Vector.ext fun k hk => h ⟨k, hk⟩

@[simp] theorem State.setReg_reg (s : State) (x r : Reg) (v : Byte) :
    (s.setReg x v).reg r = if r = x then v else s.reg r := by
  by_cases h : r = x
  · subst h; simp [State.setReg, State.reg]
  · have : ¬ x.val = r.val := fun e => h (Fin.ext e.symm)
    simp [State.setReg, State.reg, h, this]

@[simp] theorem State.setVF_reg (s : State) (r : Reg) (f : Bool) :
    (s.setVF f).reg r = if r = VF then flagByte f else s.reg r := State.setReg_reg s VF r (flagByte f)

@[simp] theorem State.setPc_reg (s : State) (p : Word) (x : Reg) : (s.setPc p).reg x = s.reg x := rfl
@[simp] theorem State.advance_reg (s : State) (x : Reg) : (s.advance).reg x = s.reg x := rfl
@[simp] theorem State.skip_reg (s : State) (x : Reg) : (s.skip).reg x = s.reg x := rfl
@[simp] theorem State.setI_reg (s : State) (v : Word) (x : Reg) : (s.setI v).reg x = s.reg x := rfl
@[simp] theorem State.setDt_reg (s : State) (v : Byte) (x : Reg) : (s.setDt v).reg x = s.reg x := rfl
@[simp] theorem State.setSt_reg (s : State) (v : Byte) (x : Reg) : (s.setSt v).reg x = s.reg x := rfl
@[simp] theorem State.setMem_reg (s : State) (m : Memory) (x : Reg) : (s.setMem m).reg x = s.reg x := rfl
@[simp] theorem State.setFb_reg (s : State) (f : Framebuffer) (x : Reg) : (s.setFb f).reg x = s.reg x := rfl
@[simp] theorem State.setDch_reg (s : State) (b : Bool) (x : Reg) : (s.setDch b).reg x = s.reg x := rfl
@[simp] theorem State.setStack_reg (s : State) (l : List Word) (x : Reg) : (s.setStack l).reg x = s.reg x := rfl
@[simp] theorem State.beginTick_reg (s : State) (r : Option Byte) (x : Reg) : (s.beginTick r).reg x = s.reg x := rfl
@[simp] theorem State.faulted_reg (s : State) (c : FaultCause) (w : Word) (x : Reg) : (s.faulted c w).reg x = s.reg x := rfl
@[simp] theorem State.skipIf_reg (s : State) (c : Bool) (x : Reg) : (s.skipIf c).reg x = s.reg x := by cases c <;> rfl

/-- Writing the value a register already holds is no write. -/
theorem State.setReg_self (s : State) (x : Reg) : s.setReg x (s.reg x) = s := by
  have : (s.setReg x (s.reg x)).regs = s.regs := State.reg_ext fun r => by
    simp only [State.setReg_reg]
    split
    · next h => rw [h]
    · rfl
  cases s
  simp_all [State.setReg]

theorem raise_eq (c : FaultCause) (w : Word) (s : State) : raise c w s = .next (s.faulted c w) := rfl

/-- What a fault entry can do: the only next state is the faulted one. -/
theorem raise_next {c : FaultCause} {w : Word} {s t : State} (h : raise c w s = .next t) : t = s.faulted c w := by
  cases h; rfl

end Sys2Proof.Machine
end

