-- ==== Sys2Proof/Laws/Machine.lean ====
section
/-! SUPPORT. What each shared operation over the state can do, said once: the writes of a result and its flag, the bulk load of
registers, push and pop, the operand forms, the tick protocol. -/

namespace Sys2Proof.Machine

/-! ### The writes of a result and its flag leave everything but the registers alone -/

@[simp] theorem writeResultFlag_pc (s : State) (x : Reg) (v : Byte) (f : Bool) : (writeResultFlag x v f s).pc = s.pc := by
  unfold writeResultFlag; split <;> rfl
@[simp] theorem writeResultFlag_i (s : State) (x : Reg) (v : Byte) (f : Bool) : (writeResultFlag x v f s).i = s.i := by
  unfold writeResultFlag; split <;> rfl
@[simp] theorem writeResultFlag_dt (s : State) (x : Reg) (v : Byte) (f : Bool) : (writeResultFlag x v f s).dt = s.dt := by
  unfold writeResultFlag; split <;> rfl
@[simp] theorem writeResultFlag_st (s : State) (x : Reg) (v : Byte) (f : Bool) : (writeResultFlag x v f s).st = s.st := by
  unfold writeResultFlag; split <;> rfl
@[simp] theorem writeResultFlag_stack (s : State) (x : Reg) (v : Byte) (f : Bool) : (writeResultFlag x v f s).stack = s.stack := by
  unfold writeResultFlag; split <;> rfl
@[simp] theorem writeResultFlag_mem (s : State) (x : Reg) (v : Byte) (f : Bool) : (writeResultFlag x v f s).mem = s.mem := by
  unfold writeResultFlag; split <;> rfl
@[simp] theorem writeResultFlag_fb (s : State) (x : Reg) (v : Byte) (f : Bool) : (writeResultFlag x v f s).fb = s.fb := by
  unfold writeResultFlag; split <;> rfl
@[simp] theorem writeResultFlag_key (s : State) (x : Reg) (v : Byte) (f : Bool) : (writeResultFlag x v f s).key = s.key := by
  unfold writeResultFlag; split <;> rfl
@[simp] theorem writeResultFlag_status (s : State) (x : Reg) (v : Byte) (f : Bool) : (writeResultFlag x v f s).status = s.status := by
  unfold writeResultFlag; split <;> rfl
@[simp] theorem writeResultFlag_dch (s : State) (x : Reg) (v : Byte) (f : Bool) : (writeResultFlag x v f s).dch = s.dch := by
  unfold writeResultFlag; split <;> rfl
@[simp] theorem writeResultFlag_image (s : State) (x : Reg) (v : Byte) (f : Bool) : (writeResultFlag x v f s).image = s.image := by
  unfold writeResultFlag; split <;> rfl
@[simp] theorem writeResultFlag_cfg (s : State) (x : Reg) (v : Byte) (f : Bool) : (writeResultFlag x v f s).cfg = s.cfg := by
  unfold writeResultFlag; split <;> rfl
@[simp] theorem writeResultFlag_rnd (s : State) (x : Reg) (v : Byte) (f : Bool) : (writeResultFlag x v f s).rnd = s.rnd := by
  unfold writeResultFlag; split <;> rfl
@[simp] theorem writeResultFlag_ticks (s : State) (x : Reg) (v : Byte) (f : Bool) : (writeResultFlag x v f s).ticks = s.ticks := by
  unfold writeResultFlag; split <;> rfl
@[simp] theorem writeResultFlag_pending (s : State) (x : Reg) (v : Byte) (f : Bool) : (writeResultFlag x v f s).pending = s.pending := by
  unfold writeResultFlag; split <;> rfl

@[simp] theorem writeLogic_pc (s : State) (x : Reg) (v : Byte) : (writeLogic x v s).pc = s.pc := by
  unfold writeLogic; split <;> rfl
@[simp] theorem writeLogic_i (s : State) (x : Reg) (v : Byte) : (writeLogic x v s).i = s.i := by
  unfold writeLogic; split <;> rfl
@[simp] theorem writeLogic_dt (s : State) (x : Reg) (v : Byte) : (writeLogic x v s).dt = s.dt := by
  unfold writeLogic; split <;> rfl
@[simp] theorem writeLogic_st (s : State) (x : Reg) (v : Byte) : (writeLogic x v s).st = s.st := by
  unfold writeLogic; split <;> rfl
@[simp] theorem writeLogic_stack (s : State) (x : Reg) (v : Byte) : (writeLogic x v s).stack = s.stack := by
  unfold writeLogic; split <;> rfl
@[simp] theorem writeLogic_mem (s : State) (x : Reg) (v : Byte) : (writeLogic x v s).mem = s.mem := by
  unfold writeLogic; split <;> rfl
@[simp] theorem writeLogic_fb (s : State) (x : Reg) (v : Byte) : (writeLogic x v s).fb = s.fb := by
  unfold writeLogic; split <;> rfl
@[simp] theorem writeLogic_key (s : State) (x : Reg) (v : Byte) : (writeLogic x v s).key = s.key := by
  unfold writeLogic; split <;> rfl
@[simp] theorem writeLogic_status (s : State) (x : Reg) (v : Byte) : (writeLogic x v s).status = s.status := by
  unfold writeLogic; split <;> rfl
@[simp] theorem writeLogic_dch (s : State) (x : Reg) (v : Byte) : (writeLogic x v s).dch = s.dch := by
  unfold writeLogic; split <;> rfl
@[simp] theorem writeLogic_image (s : State) (x : Reg) (v : Byte) : (writeLogic x v s).image = s.image := by
  unfold writeLogic; split <;> rfl
@[simp] theorem writeLogic_cfg (s : State) (x : Reg) (v : Byte) : (writeLogic x v s).cfg = s.cfg := by
  unfold writeLogic; split <;> rfl
@[simp] theorem writeLogic_rnd (s : State) (x : Reg) (v : Byte) : (writeLogic x v s).rnd = s.rnd := by
  unfold writeLogic; split <;> rfl
@[simp] theorem writeLogic_ticks (s : State) (x : Reg) (v : Byte) : (writeLogic x v s).ticks = s.ticks := by
  unfold writeLogic; split <;> rfl
@[simp] theorem writeLogic_pending (s : State) (x : Reg) (v : Byte) : (writeLogic x v s).pending = s.pending := by
  unfold writeLogic; split <;> rfl

@[simp] theorem writeShift_pc (s : State) (x : Reg) (v : Byte) (f : Bool) : (writeShift x v f s).pc = s.pc := rfl
@[simp] theorem writeShift_i (s : State) (x : Reg) (v : Byte) (f : Bool) : (writeShift x v f s).i = s.i := rfl
@[simp] theorem writeShift_dt (s : State) (x : Reg) (v : Byte) (f : Bool) : (writeShift x v f s).dt = s.dt := rfl
@[simp] theorem writeShift_st (s : State) (x : Reg) (v : Byte) (f : Bool) : (writeShift x v f s).st = s.st := rfl
@[simp] theorem writeShift_stack (s : State) (x : Reg) (v : Byte) (f : Bool) : (writeShift x v f s).stack = s.stack := rfl
@[simp] theorem writeShift_mem (s : State) (x : Reg) (v : Byte) (f : Bool) : (writeShift x v f s).mem = s.mem := rfl
@[simp] theorem writeShift_fb (s : State) (x : Reg) (v : Byte) (f : Bool) : (writeShift x v f s).fb = s.fb := rfl
@[simp] theorem writeShift_key (s : State) (x : Reg) (v : Byte) (f : Bool) : (writeShift x v f s).key = s.key := rfl
@[simp] theorem writeShift_status (s : State) (x : Reg) (v : Byte) (f : Bool) : (writeShift x v f s).status = s.status := rfl
@[simp] theorem writeShift_dch (s : State) (x : Reg) (v : Byte) (f : Bool) : (writeShift x v f s).dch = s.dch := rfl
@[simp] theorem writeShift_image (s : State) (x : Reg) (v : Byte) (f : Bool) : (writeShift x v f s).image = s.image := rfl
@[simp] theorem writeShift_cfg (s : State) (x : Reg) (v : Byte) (f : Bool) : (writeShift x v f s).cfg = s.cfg := rfl
@[simp] theorem writeShift_rnd (s : State) (x : Reg) (v : Byte) (f : Bool) : (writeShift x v f s).rnd = s.rnd := rfl
@[simp] theorem writeShift_ticks (s : State) (x : Reg) (v : Byte) (f : Bool) : (writeShift x v f s).ticks = s.ticks := rfl
@[simp] theorem writeShift_pending (s : State) (x : Reg) (v : Byte) (f : Bool) : (writeShift x v f s).pending = s.pending := rfl

/-- The later of the two writes wins when `X = 0xF` (R113). -/
theorem writeResultFlag_reg (s : State) (x : Reg) (v : Byte) (f : Bool) (r : Reg) :
    (writeResultFlag x v f s).reg r =
      match s.cfg.vfOrderAddSub with
      | .flagLast => if r = VF then flagByte f else if r = x then v else s.reg r
      | .flagFirst => if r = x then v else if r = VF then flagByte f else s.reg r := by
  unfold writeResultFlag
  cases s.cfg.vfOrderAddSub <;> simp

@[simp] theorem writeShift_reg (s : State) (x : Reg) (v : Byte) (f : Bool) (r : Reg) :
    (writeShift x v f s).reg r = if r = x then v else if r = VF then flagByte f else s.reg r := by
  simp [writeShift]

theorem writeLogic_reg (s : State) (x : Reg) (v : Byte) (r : Reg) :
    (writeLogic x v s).reg r =
      if s.cfg.logicResetsVF = true ∧ r = VF then 0 else if r = x then v else s.reg r := by
  unfold writeLogic
  cases s.cfg.logicResetsVF <;> simp

/-! ### Zero extension -/

theorem zext16_eq (nnn : Addr12) : zext16 nnn = nnn.setWidth 16 :=
  BitVec.eq_of_toNat_eq (by simp [zext16])

theorem zext16Byte_eq (b : Byte) : zext16Byte b = b.setWidth 16 :=
  BitVec.eq_of_toNat_eq (by simp [zext16Byte])

theorem zext8_eq (k : KeyCode) : zext8 k = k.setWidth 8 :=
  BitVec.eq_of_toNat_eq (by simp [zext8])

/-! ### Flags and narrowing -/

theorem add_eq_ofNat (a b : Byte) : a + b = BitVec.ofNat 8 ((a.toNat + b.toNat) % 256) :=
  BitVec.eq_of_toNat_eq (by rw [BitVec.toNat_add, BitVec.toNat_ofNat]; omega)

theorem sub_eq_ofNat (a b : Byte) : a - b = BitVec.ofNat 8 ((a.toNat + 256 - b.toNat) % 256) :=
  BitVec.eq_of_toNat_eq (by have := b.isLt; have := a.isLt; rw [BitVec.toNat_sub, BitVec.toNat_ofNat]; omega)

/-! ### The bulk load -/

/-- What the bulk load can do: it writes the registers from `k` on that the bytes reach, and no other. -/
theorem loadRegs_getElem (regs : Regs) (k : Nat) (bytes : List Byte) (j : Nat) (hj : j < 16) :
    (loadRegs regs k bytes)[j] = if k ≤ j ∧ j < k + bytes.length then bytes.getD (j - k) 0 else regs[j] := by
  induction bytes generalizing regs k with
  | nil =>
    rw [loadRegs, List.length_nil, if_neg (by omega)]
  | cons b bs ih =>
    rw [loadRegs, ih, List.length_cons]
    by_cases hjk : j = k
    · subst hjk
      rw [if_neg (by omega), if_pos (by omega), Nat.sub_self]
      simp
    · by_cases hin : k + 1 ≤ j ∧ j < k + 1 + bs.length
      · rw [if_pos hin, if_pos (by omega), show j - k = (j - (k + 1)) + 1 by omega]
        rfl
      · rw [if_neg hin, if_neg (by omega)]
        simp [Ne.symm hjk]

theorem setRegsFrom0_reg (s : State) (bytes : List Byte) (r : Reg) :
    (s.setRegsFrom0 bytes).reg r = if r.val < bytes.length then bytes.getD r.val 0 else s.reg r := by
  have := loadRegs_getElem s.regs 0 bytes r.val r.isLt
  simpa [State.reg, State.setRegsFrom0] using this

/-- The bytes `LD [I], VX` stores: `X + 1` of them, the `k`th being `x[k]`. -/
theorem regList_length (x : Reg) (s : State) : (regList x s).length = x.val + 1 := by
  have := x.isLt
  simp only [regList, List.length_take, Vector.length_toList]
  omega

theorem regList_getD (x r : Reg) (s : State) (h : r ≤ x) : (regList x s).getD r.val 0 = s.reg r := by
  have hx : r.val < x.val + 1 := Nat.lt_succ_of_le h
  simp [regList, State.reg, hx]

@[simp] theorem bcdDigits_length (v : Byte) : (bcdDigits v).length = 3 := rfl

/-! ### Push and pop -/

theorem push_of_lt {stack : List Word} (h : stack.length < 16) (a : Word) : push stack a = some (a :: stack) :=
  if_neg (Nat.not_le_of_lt h)

theorem push_of_full {stack : List Word} (h : 16 ≤ stack.length) (a : Word) : push stack a = none := if_pos h

/-- What a push can do. -/
theorem push_some {stack entries : List Word} {a : Word} (h : push stack a = some entries) :
    stack.length < 16 ∧ entries = a :: stack := by
  by_cases hf : 16 ≤ stack.length
  · rw [push_of_full hf] at h
    cases h
  · rw [push_of_lt (Nat.lt_of_not_le hf)] at h
    cases h
    exact ⟨Nat.lt_of_not_le hf, rfl⟩

/-! ### The host between two ticks -/

theorem countDownBy_toNat (n : Nat) (t : Byte) : (countDownBy n t).toNat = t.toNat - n := by
  have := t.isLt
  unfold countDownBy
  split
  · next h => simp [h]
  · rw [BitVec.toNat_ofNat, Nat.mod_eq_of_lt (by omega)]

theorem countDown_toNat (t : Byte) : (countDown t).toNat = t.toNat - 1 := by
  have := t.isLt
  unfold countDown
  split
  · next h => simp [h]
  · next h =>
    have : t.toNat ≠ 0 := fun h0 => h (BitVec.eq_of_toNat_eq h0)
    rw [BitVec.toNat_sub, show (1 : Byte).toNat = 1 from rfl]
    omega

/-- A countdown more, taken first. -/
theorem countDownBy_countDown (n : Nat) (t : Byte) : countDownBy n (countDown t) = countDownBy (n + 1) t :=
  BitVec.eq_of_toNat_eq (by rw [countDownBy_toNat, countDown_toNat, countDownBy_toNat]; omega)

@[simp] theorem countDownBy_zero (t : Byte) : countDownBy 0 t = t :=
  BitVec.eq_of_toNat_eq (by rw [countDownBy_toNat, Nat.sub_zero])

@[simp] theorem betweenTicks_nothing (s : State) : betweenTicks 0 none s = s := by simp [betweenTicks]

theorem betweenTicks_timerStep (n : Nat) (k : Option (Option KeyCode)) (s : State) :
    betweenTicks n k (timerStep s) = betweenTicks (n + 1) k s := by
  simp only [betweenTicks, timerStep, countDownBy_countDown]

theorem betweenTicks_setKey (n : Nat) (k : Option (Option KeyCode)) (k' : Option KeyCode) (s : State) :
    betweenTicks n k (setKey k' s) = betweenTicks n (some (k.getD k')) s := rfl

/-! ### The tick protocol -/

@[simp] theorem fetch_beginTick (s : State) (r : Option Byte) : fetch (s.beginTick r) = fetch s := rfl

theorem tick_terminal {s : State} (h : s.status ≠ .normal) (r : Option Byte) : tick r s = .next (s.beginTick r) := by
  unfold tick
  cases hs : s.status <;> simp_all

theorem tick_finished {s : State} (h : s.status = .normal) (hpc : 4096 ≤ s.pc.toNat) (r : Option Byte) :
    tick r s = .next { s.beginTick r with status := .finished } := by
  unfold tick
  rw [h]
  exact if_pos hpc

theorem tick_running {s : State} (h : s.status = .normal) (hpc : s.pc.toNat < 4096) (r : Option Byte) :
    tick r s = fetchAndExecute (s.beginTick r) := by
  unfold tick
  rw [h]
  exact if_neg (Nat.not_le_of_lt hpc)

/-- What steps 2 to 6 of a tick can do, said once. -/
theorem fetchAndExecute_cases (s : State) :
    (∃ a, fetch s = .error a ∧ fetchAndExecute s = .next (s.faulted .memOutOfRange a)) ∨
    (∃ w e, fetch s = .ok w ∧ decode w = .error e ∧ fetchAndExecute s = .next (s.faulted .decodeFault w)) ∨
    (∃ w i, fetch s = .ok w ∧ decode w = .ok i ∧ fetchAndExecute s = exec i s) := by
  cases hf : fetch s with
  | error a => exact .inl ⟨a, rfl, by simp only [fetchAndExecute, hf]; rfl⟩
  | ok w =>
    cases hd : decode w with
    | error e => exact .inr (.inl ⟨w, e, rfl, hd, by simp only [fetchAndExecute, hf, hd]; rfl⟩)
    | ok i => exact .inr (.inr ⟨w, i, rfl, hd, by simp only [fetchAndExecute, hf, hd]⟩)

/-- What a tick can do, said once. -/
theorem tick_cases (s : State) (r : Option Byte) :
    (s.status ≠ .normal ∧ tick r s = .next (s.beginTick r)) ∨
    (s.status = .normal ∧ 4096 ≤ s.pc.toNat ∧ tick r s = .next { s.beginTick r with status := .finished }) ∨
    (s.status = .normal ∧ s.pc.toNat < 4096 ∧ tick r s = fetchAndExecute (s.beginTick r)) := by
  by_cases h : s.status = .normal
  · by_cases hpc : 4096 ≤ s.pc.toNat
    · exact .inr (.inl ⟨h, hpc, tick_finished h hpc r⟩)
    · exact .inr (.inr ⟨h, Nat.lt_of_not_le hpc, tick_running h (Nat.lt_of_not_le hpc) r⟩)
  · exact .inl ⟨h, tick_terminal h r⟩

/-- A word can be fetched exactly where it and the byte after it lie in memory (R45). -/
theorem fetch_of_le {s : State} (h : s.pc.toNat ≤ 4094) :
    fetch s = .ok (wordOfBytes (s.mem.read s.pc.toNat) (s.mem.read (s.pc.toNat + 1))) :=
  if_neg (by simp only [Config.memSize]; omega)

/-- The next step fetches from an address with a whole word. -/
theorem fetchAddress_lt (s : State) : fetchAddress s + 1 < 4096 := by
  unfold fetchAddress
  split
  · next h => exact h
  · decide

/-- Placing a word keeps the canonical form. -/
theorem placeWord_wf {s : State} (h : s.mem.wf = true) (w : Word) : (placeWord s w).mem.wf = true :=
  Memory.wf_writeBytes h _ (by have := fetchAddress_lt s; simp only [List.length_cons, List.length_nil]; omega)

end Sys2Proof.Machine
end

