-- ==== Sys2Proof/Laws/Exec.lean ====
section
/-! SUPPORT. What `exec` can do, said once: it takes the fault of `Raises`, or it completes with the state `completed`. -/

namespace Sys2Proof.Machine

/-- When an instruction takes a fault, with its cause and its info (the conditions of R80, R81, R83, R123 to R125, R131). -/
inductive Raises (s : State) : Instr → FaultCause → Word → Prop
  | sys (nnn : Addr12) : s.cfg.sysPolicy = .fault → Raises s (.sys nnn) .decodeFault (encode (.sys nnn))
  | ret : s.stack = [] → Raises s .ret .stackUnderflow (encode .ret)
  | call (nnn : Addr12) : 16 ≤ s.stack.length → Raises s (.call nnn) .stackOverflow (encode (.call nnn))
  | drwLength (x y : Reg) : Raises s (.drw x y 0) .spriteLength (encode (.drw x y 0))
  | drw (x y : Reg) (n : Fin 16) : n ≠ 0 → 4096 ≤ s.i.toNat + n.val - 1 →
      Raises s (.drw x y n) .memOutOfRange (firstOutOfRange s.i.toNat)
  | ldB (x : Reg) : 4096 ≤ s.i.toNat + 2 → Raises s (.ldB x) .memOutOfRange (firstOutOfRange s.i.toNat)
  | ldMemVx (x : Reg) : 4096 ≤ s.i.toNat + x.val → Raises s (.ldMemVx x) .memOutOfRange (firstOutOfRange s.i.toNat)
  | ldVxMem (x : Reg) : 4096 ≤ s.i.toNat + x.val → Raises s (.ldVxMem x) .memOutOfRange (firstOutOfRange s.i.toNat)

/-- The state an instruction that takes no fault completes with. -/
def completed (i : Instr) (s : State) : State :=
  match i with
  | .sys _ => s.advance
  | .cls => ((s.setFb Framebuffer.blank).setDch true).advance
  | .ret => (s.setStack s.stack.tail).setPc (if s.cfg.callPushPre then s.stack.headD 0 + 2 else s.stack.headD 0)
  | .jp nnn => s.setPc (zext16 nnn)
  | .call nnn => (s.setStack (returnAddress s :: s.stack)).setPc (zext16 nnn)
  | .seImm x nn => s.skipIf (s.reg x == nn)
  | .sneImm x nn => s.skipIf (s.reg x != nn)
  | .seReg x y => s.skipIf (s.reg x == s.reg y)
  | .ldImm x nn => (s.setReg x nn).advance
  | .addImm x nn => (s.setReg x (s.reg x + nn)).advance
  | .ldReg x y => (s.setReg x (s.reg y)).advance
  | .orReg x y => (writeLogic x (s.reg x ||| s.reg y) s).advance
  | .andReg x y => (writeLogic x (s.reg x &&& s.reg y) s).advance
  | .xorReg x y => (writeLogic x (s.reg x ^^^ s.reg y) s).advance
  | .addReg x y => (writeResultFlag x (s.reg x + s.reg y) (carry (s.reg x) (s.reg y)) s).advance
  | .sub x y => (writeResultFlag x (s.reg x - s.reg y) (noBorrow (s.reg x) (s.reg y)) s).advance
  | .shr x y => (writeShift x (shiftOperand x y s >>> 1) (lostRight (shiftOperand x y s)) s).advance
  | .subn x y => (writeResultFlag x (s.reg y - s.reg x) (noBorrow (s.reg y) (s.reg x)) s).advance
  | .shl x y => (writeShift x (shiftOperand x y s <<< 1) (lostLeft (shiftOperand x y s)) s).advance
  | .sneReg x y => s.skipIf (s.reg x != s.reg y)
  | .ldI nnn => (s.setI (zext16 nnn)).advance
  | .jpV0 nnn => s.setPc (zext16 nnn + zext16Byte (s.reg 0))
  | .rnd x nn => (s.setReg x (s.rndByte &&& nn)).advance
  | .drw x y n =>
    let drawn := blit s.fb (s.mem.readBytes (dataAddress s) n.val) (spriteColumn x s) (spriteRow y s)
    (((s.setFb drawn.1).setVF drawn.2).setDch true).advance
  | .skp x => s.skipIf (isPressed s.key (s.reg x))
  | .sknp x => s.skipIf (isReleased s.key (s.reg x))
  | .ldVxDt x => (s.setReg x s.dt).advance
  | .ldVxK x => s.key.elim s fun k => (s.setReg x (zext8 k)).advance
  | .ldDtVx x => (s.setDt (s.reg x)).advance
  | .ldStVx x => (s.setSt (s.reg x)).advance
  | .addI x => (s.setI (s.i + zext16Byte (s.reg x))).advance
  | .ldF x => (s.setI (glyphAddress (s.reg x) s)).advance
  | .ldB x => (s.setMem (s.mem.writeBytes (dataAddress s) (bcdDigits (s.reg x)))).advance
  | .ldMemVx x => ((s.setMem (s.mem.writeBytes (dataAddress s) (regList x s))).setI (bulkNextI x s)).advance
  | .ldVxMem x => ((s.setRegsFrom0 (s.mem.readBytes (dataAddress s) (x.val + 1))).setI (bulkNextI x s)).advance

theorem exec_of_raises {s : State} {i : Instr} {cause : FaultCause} {info : Word} (h : Raises s i cause info) :
    exec i s = .next (s.faulted cause info) := by
  cases h
  case sys nnn h => simp only [exec, execSys, h]; rfl
  case ret h => simp only [exec, execRet, h]; rfl
  case call nnn h => simp only [exec, execCall, push_of_full h]; rfl
  case drwLength => rfl
  case drw x y n hn h => simp only [exec, execDrw, if_neg hn, memReadSeg_of_le (a := dataAddress s) h]; rfl
  case ldB x h => simp only [exec, execLdB, memWriteSeg_of_le (a := dataAddress s) (bytes := bcdDigits (s.reg x)) h]; rfl
  case ldMemVx x h =>
    simp only [exec, execLdMemVx]
    rw [memWriteSeg_of_le (by rw [regList_length]; exact h)]
    rfl
  case ldVxMem x h => simp only [exec, execLdVxMem, memReadSeg_of_le (a := dataAddress s) (len := x.val + 1) h]; rfl

theorem exec_of_not_raises {s : State} {i : Instr} (h : ∀ cause info, ¬ Raises s i cause info) :
    exec i s = .next (completed i s) := by
  cases i
  case sys nnn =>
    cases hp : s.cfg.sysPolicy with
    | fault => exact absurd (.sys nnn hp) (h _ _)
    | nop => simp only [exec, execSys, hp]; rfl
  case ret =>
    cases hs : s.stack with
    | nil => exact absurd (.ret hs) (h _ _)
    | cons a rest => simp only [exec, execRet, hs, completed]; rfl
  case call nnn =>
    have hs : s.stack.length < 16 := Nat.lt_of_not_le fun hs => h _ _ (.call nnn hs)
    simp only [exec, execCall, push_of_lt hs]
    rfl
  case drw x y n =>
    have hn : n ≠ 0 := by
      rintro rfl
      exact h _ _ (.drwLength x y)
    have hi : dataAddress s + n.val - 1 < 4096 := Nat.lt_of_not_le fun hi => h _ _ (.drw x y n hn hi)
    simp only [exec, execDrw, if_neg hn, memReadSeg_of_lt hi]
    rfl
  case ldB x =>
    have hi : dataAddress s + 2 < 4096 := Nat.lt_of_not_le fun hi => h _ _ (.ldB x hi)
    simp only [exec, execLdB]
    rw [memWriteSeg_of_lt hi]
    rfl
  case ldMemVx x =>
    have hi : dataAddress s + x.val < 4096 := Nat.lt_of_not_le fun hi => h _ _ (.ldMemVx x hi)
    simp only [exec, execLdMemVx]
    rw [memWriteSeg_of_lt (by rw [regList_length]; exact hi)]
    rfl
  case ldVxMem x =>
    have hi : dataAddress s + x.val < 4096 := Nat.lt_of_not_le fun hi => h _ _ (.ldVxMem x hi)
    simp only [exec, execLdVxMem]
    rw [memReadSeg_of_lt (len := x.val + 1) hi]
    rfl
  case ldVxK x => simp only [exec, execLdVxK, completed]; cases s.key <;> rfl
  all_goals rfl

/-- What `exec` can do, said once. -/
theorem exec_cases (i : Instr) (s : State) :
    (∃ cause info, Raises s i cause info ∧ exec i s = .next (s.faulted cause info)) ∨
    ((∀ cause info, ¬ Raises s i cause info) ∧ exec i s = .next (completed i s)) := by
  by_cases h : ∃ cause info, Raises s i cause info
  · obtain ⟨cause, info, h⟩ := h
    exact .inl ⟨cause, info, h, exec_of_raises h⟩
  · have h' : ∀ cause info, ¬ Raises s i cause info := fun cause info hr => h ⟨cause, info, hr⟩
    exact .inr ⟨h', exec_of_not_raises h'⟩

end Sys2Proof.Machine
end

