-- ==== Sys2Proof/Laws/PerInstr.lean ====
section
/-! SUPPORT. Statements about every instruction as syntax, one lemma per constructor. -/

/-- The encoding of a well-formed instruction is a word of its row of the opcode map (R63). -/
def Sys2Proof.Laws.EncodedInItsRow.Statement (i : Sys2Proof.Instr) : Prop :=
  i.wf = true → ∃ r ∈ Sys2Proof.opcodeTable, r.row = i.row ∧ r.matchesWord (Sys2Proof.encode i) = true

namespace Sys2Proof.Laws

theorem matchesWord_of_and_eq {w value mask : Word} {row : Nat} {excluded : List Word} (h : w &&& mask = value)
    (he : w ∉ excluded) : (OpcodeRow.mk row value mask excluded).matchesWord w = true := by
  simp only [OpcodeRow.matchesWord, h, beq_self_eq_true, Bool.true_and, Bool.not_eq_true', Bool.eq_false_iff]
  exact fun hc => he (List.contains_iff_mem.1 hc)

/-- A word of a row that is told by its family nibble alone. -/
theorem matches_F000 {w : Word} {row k : Nat} {value : Word} (hv : value.toNat = k * 4096) (hw : w.toNat / 4096 = k) :
    (OpcodeRow.mk row value 0xF000 []).matchesWord w = true := by
  exact matchesWord_of_and_eq (BitVec.eq_of_toNat_eq (by rw [toNat_and_F000, hw, hv])) List.not_mem_nil

/-- A word of a row that is told by its first and last nibble. -/
theorem matches_F00F {w : Word} {row k n : Nat} {value : Word} (hv : value.toNat = k * 4096 + n) (hw : w.toNat / 4096 = k)
    (hn : w.toNat % 16 = n) : (OpcodeRow.mk row value 0xF00F []).matchesWord w = true := by
  exact matchesWord_of_and_eq (BitVec.eq_of_toNat_eq (by rw [toNat_and_F00F, hw, hn, hv])) List.not_mem_nil

/-- A word of a row that is told by its first nibble and its low byte. -/
theorem matches_F0FF {w : Word} {row k n : Nat} {value : Word} (hv : value.toNat = k * 4096 + n) (hw : w.toNat / 4096 = k)
    (hn : w.toNat % 256 = n) : (OpcodeRow.mk row value 0xF0FF []).matchesWord w = true := by
  exact matchesWord_of_and_eq (BitVec.eq_of_toNat_eq (by rw [toNat_and_F0FF, hw, hn, hv])) List.not_mem_nil

theorem wordNNN_matches {row op : Nat} {value : Word} (h : op < 16) (hv : value.toNat = op * 4096) (nnn : Addr12) :
    (OpcodeRow.mk row value 0xF000 []).matchesWord (wordNNN op nnn) = true :=
  matches_F000 hv (by have := nnn.isLt; rw [wordNNN_toNat h]; omega)

theorem wordXNN_matches {row op : Nat} {value : Word} (h : op < 16) (hv : value.toNat = op * 4096) (x : Reg) (nn : Byte) :
    (OpcodeRow.mk row value 0xF000 []).matchesWord (wordXNN op x nn) = true :=
  matches_F000 hv (by have := nn.isLt; have := x.isLt; rw [wordXNN_toNat h]; omega)

theorem wordX_matches {row op : Nat} {value : Word} (h : op < 16) (x : Reg) {nn : Byte}
    (hv : value.toNat = op * 4096 + nn.toNat) : (OpcodeRow.mk row value 0xF0FF []).matchesWord (wordXNN op x nn) = true := by
  have := nn.isLt
  have := x.isLt
  exact matches_F0FF hv (by rw [wordXNN_toNat h]; omega) (by rw [wordXNN_toNat h]; omega)

theorem wordXYN_matches_F000 {row op : Nat} {value : Word} (h : op < 16) (hv : value.toNat = op * 4096) (x y : Reg)
    (n : Fin 16) : (OpcodeRow.mk row value 0xF000 []).matchesWord (wordXYN op x y n) = true :=
  matches_F000 hv (by have := n.isLt; have := y.isLt; have := x.isLt; rw [wordXYN_toNat h]; omega)

theorem wordXYN_matches {row op : Nat} {value : Word} (h : op < 16) (x y : Reg) {n : Fin 16}
    (hv : value.toNat = op * 4096 + n.val) : (OpcodeRow.mk row value 0xF00F []).matchesWord (wordXYN op x y n) = true := by
  have := n.isLt
  have := y.isLt
  have := x.isLt
  exact matches_F00F hv (by rw [wordXYN_toNat h]; omega) (by rw [wordXYN_toNat h]; omega)

/-- `SYS NNN` outside the words of `CLS` and `RET`. -/
theorem wordNNN_matches_sys {nnn : Addr12} (hne : (nnn != 0x0E0 && nnn != 0x0EE) = true) :
    (OpcodeRow.mk 1 0x0000 0xF000 [0x00E0, 0x00EE]).matchesWord (wordNNN 0 nnn) = true := by
  have hm : wordNNN 0 nnn &&& 0xF000 = (0 : Word) := by
    have := nnn.isLt
    apply BitVec.eq_of_toNat_eq
    rw [toNat_and_F000, wordNNN_toNat (by omega)]
    change _ * 4096 = 0
    omega
  have hw : ∀ k : Nat, k < 4096 → nnn ≠ BitVec.ofNat 12 k → wordNNN 0 nnn ≠ BitVec.ofNat 16 k := fun k hk hn he => by
    refine hn (BitVec.eq_of_toNat_eq ?_)
    have := congrArg BitVec.toNat he
    rw [wordNNN_toNat (by omega)] at this
    simp only [BitVec.toNat_ofNat] at this ⊢
    omega
  have h := Bool.and_eq_true_iff.1 hne
  have h1 : nnn ≠ 0x0E0 := by simpa using h.1
  have h2 : nnn ≠ 0x0EE := by simpa using h.2
  have e1 : wordNNN 0 nnn ≠ 0x00E0 := hw 0xE0 (by omega) h1
  have e2 : wordNNN 0 nnn ≠ 0x00EE := hw 0xEE (by omega) h2
  refine matchesWord_of_and_eq hm fun hmem => ?_
  rcases List.mem_cons.1 hmem with he | he
  · exact e1 he
  · exact e2 (List.mem_singleton.1 he)

namespace EncodedInItsRow

theorem sys (nnn : Addr12) : Statement (.sys nnn) := fun h =>
  ⟨_, by simp [opcodeTable], rfl, wordNNN_matches_sys h⟩
theorem cls : Statement .cls := fun _ => ⟨⟨2, 0x00E0, 0xFFFF, []⟩, by simp [opcodeTable], rfl, by decide⟩
theorem ret : Statement .ret := fun _ => ⟨⟨3, 0x00EE, 0xFFFF, []⟩, by simp [opcodeTable], rfl, by decide⟩
theorem jp (nnn : Addr12) : Statement (.jp nnn) := fun _ =>
  ⟨⟨4, 0x1000, 0xF000, []⟩, by simp [opcodeTable], rfl, wordNNN_matches (by omega) rfl nnn⟩
theorem call (nnn : Addr12) : Statement (.call nnn) := fun _ =>
  ⟨⟨5, 0x2000, 0xF000, []⟩, by simp [opcodeTable], rfl, wordNNN_matches (by omega) rfl nnn⟩
theorem seImm (x : Reg) (nn : Byte) : Statement (.seImm x nn) := fun _ =>
  ⟨⟨6, 0x3000, 0xF000, []⟩, by simp [opcodeTable], rfl, wordXNN_matches (by omega) rfl x nn⟩
theorem sneImm (x : Reg) (nn : Byte) : Statement (.sneImm x nn) := fun _ =>
  ⟨⟨7, 0x4000, 0xF000, []⟩, by simp [opcodeTable], rfl, wordXNN_matches (by omega) rfl x nn⟩
theorem seReg (x y : Reg) : Statement (.seReg x y) := fun _ =>
  ⟨⟨8, 0x5000, 0xF00F, []⟩, by simp [opcodeTable], rfl, wordXYN_matches (by omega) x y rfl⟩
theorem ldImm (x : Reg) (nn : Byte) : Statement (.ldImm x nn) := fun _ =>
  ⟨⟨9, 0x6000, 0xF000, []⟩, by simp [opcodeTable], rfl, wordXNN_matches (by omega) rfl x nn⟩
theorem addImm (x : Reg) (nn : Byte) : Statement (.addImm x nn) := fun _ =>
  ⟨⟨10, 0x7000, 0xF000, []⟩, by simp [opcodeTable], rfl, wordXNN_matches (by omega) rfl x nn⟩
theorem ldReg (x y : Reg) : Statement (.ldReg x y) := fun _ =>
  ⟨⟨11, 0x8000, 0xF00F, []⟩, by simp [opcodeTable], rfl, wordXYN_matches (by omega) x y rfl⟩
theorem orReg (x y : Reg) : Statement (.orReg x y) := fun _ =>
  ⟨⟨12, 0x8001, 0xF00F, []⟩, by simp [opcodeTable], rfl, wordXYN_matches (by omega) x y rfl⟩
theorem andReg (x y : Reg) : Statement (.andReg x y) := fun _ =>
  ⟨⟨13, 0x8002, 0xF00F, []⟩, by simp [opcodeTable], rfl, wordXYN_matches (by omega) x y rfl⟩
theorem xorReg (x y : Reg) : Statement (.xorReg x y) := fun _ =>
  ⟨⟨14, 0x8003, 0xF00F, []⟩, by simp [opcodeTable], rfl, wordXYN_matches (by omega) x y rfl⟩
theorem addReg (x y : Reg) : Statement (.addReg x y) := fun _ =>
  ⟨⟨15, 0x8004, 0xF00F, []⟩, by simp [opcodeTable], rfl, wordXYN_matches (by omega) x y rfl⟩
theorem sub (x y : Reg) : Statement (.sub x y) := fun _ =>
  ⟨⟨16, 0x8005, 0xF00F, []⟩, by simp [opcodeTable], rfl, wordXYN_matches (by omega) x y rfl⟩
theorem shr (x y : Reg) : Statement (.shr x y) := fun _ =>
  ⟨⟨17, 0x8006, 0xF00F, []⟩, by simp [opcodeTable], rfl, wordXYN_matches (by omega) x y rfl⟩
theorem subn (x y : Reg) : Statement (.subn x y) := fun _ =>
  ⟨⟨18, 0x8007, 0xF00F, []⟩, by simp [opcodeTable], rfl, wordXYN_matches (by omega) x y rfl⟩
theorem shl (x y : Reg) : Statement (.shl x y) := fun _ =>
  ⟨⟨19, 0x800E, 0xF00F, []⟩, by simp [opcodeTable], rfl, wordXYN_matches (by omega) x y rfl⟩
theorem sneReg (x y : Reg) : Statement (.sneReg x y) := fun _ =>
  ⟨⟨20, 0x9000, 0xF00F, []⟩, by simp [opcodeTable], rfl, wordXYN_matches (by omega) x y rfl⟩
theorem ldI (nnn : Addr12) : Statement (.ldI nnn) := fun _ =>
  ⟨⟨21, 0xA000, 0xF000, []⟩, by simp [opcodeTable], rfl, wordNNN_matches (by omega) rfl nnn⟩
theorem jpV0 (nnn : Addr12) : Statement (.jpV0 nnn) := fun _ =>
  ⟨⟨22, 0xB000, 0xF000, []⟩, by simp [opcodeTable], rfl, wordNNN_matches (by omega) rfl nnn⟩
theorem rnd (x : Reg) (nn : Byte) : Statement (.rnd x nn) := fun _ =>
  ⟨⟨23, 0xC000, 0xF000, []⟩, by simp [opcodeTable], rfl, wordXNN_matches (by omega) rfl x nn⟩
theorem drw (x y : Reg) (n : Fin 16) : Statement (.drw x y n) := fun _ =>
  ⟨⟨24, 0xD000, 0xF000, []⟩, by simp [opcodeTable], rfl, wordXYN_matches_F000 (by omega) rfl x y n⟩
theorem skp (x : Reg) : Statement (.skp x) := fun _ =>
  ⟨⟨25, 0xE09E, 0xF0FF, []⟩, by simp [opcodeTable], rfl, wordX_matches (by omega) x rfl⟩
theorem sknp (x : Reg) : Statement (.sknp x) := fun _ =>
  ⟨⟨26, 0xE0A1, 0xF0FF, []⟩, by simp [opcodeTable], rfl, wordX_matches (by omega) x rfl⟩
theorem ldVxDt (x : Reg) : Statement (.ldVxDt x) := fun _ =>
  ⟨⟨27, 0xF007, 0xF0FF, []⟩, by simp [opcodeTable], rfl, wordX_matches (by omega) x rfl⟩
theorem ldVxK (x : Reg) : Statement (.ldVxK x) := fun _ =>
  ⟨⟨28, 0xF00A, 0xF0FF, []⟩, by simp [opcodeTable], rfl, wordX_matches (by omega) x rfl⟩
theorem ldDtVx (x : Reg) : Statement (.ldDtVx x) := fun _ =>
  ⟨⟨29, 0xF015, 0xF0FF, []⟩, by simp [opcodeTable], rfl, wordX_matches (by omega) x rfl⟩
theorem ldStVx (x : Reg) : Statement (.ldStVx x) := fun _ =>
  ⟨⟨30, 0xF018, 0xF0FF, []⟩, by simp [opcodeTable], rfl, wordX_matches (by omega) x rfl⟩
theorem addI (x : Reg) : Statement (.addI x) := fun _ =>
  ⟨⟨31, 0xF01E, 0xF0FF, []⟩, by simp [opcodeTable], rfl, wordX_matches (by omega) x rfl⟩
theorem ldF (x : Reg) : Statement (.ldF x) := fun _ =>
  ⟨⟨32, 0xF029, 0xF0FF, []⟩, by simp [opcodeTable], rfl, wordX_matches (by omega) x rfl⟩
theorem ldB (x : Reg) : Statement (.ldB x) := fun _ =>
  ⟨⟨33, 0xF033, 0xF0FF, []⟩, by simp [opcodeTable], rfl, wordX_matches (by omega) x rfl⟩
theorem ldMemVx (x : Reg) : Statement (.ldMemVx x) := fun _ =>
  ⟨⟨34, 0xF055, 0xF0FF, []⟩, by simp [opcodeTable], rfl, wordX_matches (by omega) x rfl⟩
theorem ldVxMem (x : Reg) : Statement (.ldVxMem x) := fun _ =>
  ⟨⟨35, 0xF065, 0xF0FF, []⟩, by simp [opcodeTable], rfl, wordX_matches (by omega) x rfl⟩

end EncodedInItsRow

end Sys2Proof.Laws
end

