-- ==== Sys2Proof/Tests/Slice0.lean ====
section
/-! SUPPORT. The model's own tests: ill-formed terms, words written out from the encodings of R63, one step per instruction with the
vectors of 95_test_vectors.md, and a witness for the hypotheses of every obligation that has some. -/

namespace Sys2Proof.Machine.Tests

/-! ### Helpers -/

/-- The state after reset with some registers set. -/
def withRegs (values : List (Reg × Byte)) : State := values.foldl (fun s v => s.setReg v.1 v.2) State.reset

/-- One step with the word `w` placed where it is fetched (0x200 after reset). -/
def stepWord (w : Nat) (s : State) : Option State := nextOf (step (s.withFetchWord 16 w))

/-- What a register, the flag register and the program counter read after one step. -/
def seen (r : Reg) (s : Option State) : Option (Byte × Byte × Word) := s.map fun t => (t.reg r, t.reg VF, t.pc)

/-- A state with every call-stack slot in use. -/
def fullStack : State := { State.reset with stack := List.replicate 16 0x202 }

/-- A state with `I` and one byte of memory set. -/
def withByte (i : Word) (a : Nat) (b : Byte) : State := { State.reset with i := i, mem := Memory.write [] a b }

/-! ### WellFormed: the two ill-formed `SYS` terms are refused -/

theorem test_wf_refuses_sys_cls : (Instr.sys 0x0E0).wf = false := by decide
theorem test_wf_refuses_sys_ret : (Instr.sys 0x0EE).wf = false := by decide

/-! ### Decode: every constructor by a word written out from R63 -/

theorem test_decode_family_0 :
    decode 0b0000000011100000 = .ok .cls ∧ decode 0b0000000011101110 = .ok .ret ∧ decode 0b0000000100100011 = .ok (.sys 0x123) := by
  decide

theorem test_decode_jumps :
    decode 0b0001101010111100 = .ok (.jp 0xABC) ∧ decode 0b0010001000010000 = .ok (.call 0x210) ∧
    decode 0b1010001011110000 = .ok (.ldI 0x2F0) ∧ decode 0b1011001100000000 = .ok (.jpV0 0x300) := by decide

theorem test_decode_immediates :
    decode 0b0011101001000010 = .ok (.seImm 0xA 0x42) ∧ decode 0b0100001100101010 = .ok (.sneImm 3 0x2A) ∧
    decode 0b0110000001000010 = .ok (.ldImm 0 0x42) ∧ decode 0b0111001000100000 = .ok (.addImm 2 0x20) ∧
    decode 0b1100010100001111 = .ok (.rnd 5 0x0F) := by decide

theorem test_decode_registers :
    decode 0b0101000100100000 = .ok (.seReg 1 2) ∧ decode 0b1001000100100000 = .ok (.sneReg 1 2) ∧
    decode 0b1101000100100101 = .ok (.drw 1 2 5) := by decide

theorem test_decode_family_8 :
    decode 0b1000001101000000 = .ok (.ldReg 3 4) ∧ decode 0b1000001101000001 = .ok (.orReg 3 4) ∧
    decode 0b1000001101000010 = .ok (.andReg 3 4) ∧ decode 0b1000001101000011 = .ok (.xorReg 3 4) ∧
    decode 0b1000001101000100 = .ok (.addReg 3 4) ∧ decode 0b1000001101000101 = .ok (.sub 3 4) ∧
    decode 0b1000001101000110 = .ok (.shr 3 4) ∧ decode 0b1000001101000111 = .ok (.subn 3 4) ∧
    decode 0b1000001101001110 = .ok (.shl 3 4) := by decide

theorem test_decode_families_E_F :
    decode 0b1110001010011110 = .ok (.skp 2) ∧ decode 0b1110001010100001 = .ok (.sknp 2) ∧
    decode 0b1111000100000111 = .ok (.ldVxDt 1) ∧ decode 0b1111001100001010 = .ok (.ldVxK 3) ∧
    decode 0b1111000000010101 = .ok (.ldDtVx 0) ∧ decode 0b1111010000011000 = .ok (.ldStVx 4) ∧
    decode 0b1111001000011110 = .ok (.addI 2) ∧ decode 0b1111000000101001 = .ok (.ldF 0) ∧
    decode 0b1111000000110011 = .ok (.ldB 0) ∧ decode 0b1111001001010101 = .ok (.ldMemVx 2) ∧
    decode 0b1111001001100101 = .ok (.ldVxMem 2) := by decide

/-- Words of section 2.6 of 95_test_vectors.md. -/
theorem test_decode_rejects :
    decode 0x5121 = .error .reservedFamily5 ∧ decode 0x912F = .error .reservedFamily9 ∧ decode 0x8018 = .error .reservedFamily8 ∧
    decode 0x801F = .error .reservedFamily8 ∧ decode 0xE29F = .error .reservedFamilyE ∧ decode 0xF275 = .error .reservedFamilyF ∧
    decode 0xF02A = .error .reservedFamilyF := by decide

theorem test_decode_table_word : decodeTableWord 16 0x8014 = some (.addReg 0 1) ∧ decodeTableWord 16 0xF0FF = none := by decide

/-! ### Control transfer: V-F1 to V-F12 -/

theorem test_sys_faults : (stepWord 0x0123 State.reset).map (fun t => (t.status, t.pc)) =
    some (.error .decodeFault 0x0123, 0x200) := by decide
theorem test_sys_nop :
    (stepWord 0x0123 { State.reset with cfg := { Config.Params.hardware with sysPolicy := .nop } }).map (fun t => (t.status, t.pc)) =
      some (.normal, 0x202) := by decide
theorem test_ret_underflow : (stepWord 0x00EE State.reset).map (fun t => (t.status, t.pc)) =
    some (.error .stackUnderflow 0x00EE, 0x200) := by decide
theorem test_ret : (stepWord 0x00EE { State.reset with stack := [0x206] }).map (fun t => (t.pc, t.sp)) = some (0x206, 0) := by decide
theorem test_jp : (stepWord 0x1ABC State.reset).map (·.pc) = some 0xABC := by decide
theorem test_call : (stepWord 0x2ABC State.reset).map (fun t => (t.pc, t.sp, t.stackSlot 0)) = some (0xABC, 1, some 0x202) := by decide
theorem test_call_overflow : (stepWord 0x2200 fullStack).map (fun t => (t.status, t.pc, t.stack)) =
    some (.error .stackOverflow 0x2200, 0x200, fullStack.stack) := by decide
theorem test_se_imm : (stepWord 0x3A42 (withRegs [(0xA, 0x42)])).map (·.pc) = some 0x204 := by decide
theorem test_sne_imm : (stepWord 0x4A42 (withRegs [(0xA, 0x41)])).map (·.pc) = some 0x204 := by decide
theorem test_se_reg : (stepWord 0x5AB0 (withRegs [(0xA, 7), (0xB, 8)])).map (·.pc) = some 0x202 := by decide
theorem test_sne_reg : (stepWord 0x9AB0 (withRegs [(0xA, 7), (0xB, 8)])).map (·.pc) = some 0x204 := by decide
theorem test_jp_v0 : (stepWord 0xBFFF (withRegs [(0, 1)])).map (·.pc) = some 0x1000 := by decide

/-! ### Load, arithmetic, logic, shift, random: section 2.2 -/

theorem test_ld_imm : seen 0xA (stepWord 0x6A42 State.reset) = some (0x42, 0, 0x202) := by decide
theorem test_add_imm_no_flag : seen 2 (stepWord 0x7220 (withRegs [(2, 0xF0), (0xF, 0x55)])) = some (0x10, 0x55, 0x202) := by decide
theorem test_ld_reg : seen 0 (stepWord 0x8010 (withRegs [(0, 0xF0), (1, 0x5A), (0xF, 0x55)])) = some (0x5A, 0x55, 0x202) := by decide
theorem test_or : seen 0 (stepWord 0x8011 (withRegs [(0, 0xF0), (1, 0x0F), (0xF, 0x55)])) = some (0xFF, 0x55, 0x202) := by decide
theorem test_and : seen 0 (stepWord 0x8012 (withRegs [(0, 0xF0), (1, 0x3C), (0xF, 0x55)])) = some (0x30, 0x55, 0x202) := by decide
theorem test_xor_quirk :
    seen 0 (stepWord 0x8013 { withRegs [(0, 0xF0), (1, 0x3C), (0xF, 0x55)] with
      cfg := { Config.Params.hardware with logicResetsVF := true } }) = some (0xCC, 0, 0x202) := by decide
theorem test_add_carry : seen 0 (stepWord 0x8014 (withRegs [(0, 250), (1, 10)])) = some (4, 1, 0x202) := by decide
theorem test_add_flag_last : seen 0xF (stepWord 0x8F14 (withRegs [(0xF, 250), (1, 10)])) = some (1, 1, 0x202) := by decide
theorem test_sub_borrow : seen 0 (stepWord 0x8015 (withRegs [(0, 5), (1, 10)])) = some (0xFB, 0, 0x202) := by decide
theorem test_sub_equal : seen 0 (stepWord 0x8015 (withRegs [(0, 7), (1, 7)])) = some (0, 1, 0x202) := by decide
theorem test_shr : seen 0 (stepWord 0x8016 (withRegs [(0, 5), (1, 0xAB)])) = some (2, 1, 0x202) := by decide
theorem test_shr_vf : seen 0xF (stepWord 0x8F06 (withRegs [(0xF, 5)])) = some (2, 2, 0x202) := by decide
theorem test_subn : seen 0 (stepWord 0x8017 (withRegs [(0, 10), (1, 5)])) = some (0xFB, 0, 0x202) := by decide
theorem test_subn_no_borrow : seen 0 (stepWord 0x8017 (withRegs [(0, 5), (1, 10)])) = some (5, 1, 0x202) := by decide
theorem test_shl : seen 0 (stepWord 0x801E (withRegs [(0, 0x81)])) = some (0x02, 1, 0x202) := by decide
theorem test_shl_quirk :
    seen 0 (stepWord 0x801E { withRegs [(1, 0xAB)] with cfg := { Config.Params.hardware with shiftUsesVY := true } }) =
      some (0x56, 1, 0x202) := by decide
theorem test_rnd :
    seen 5 (nextOf (step { State.reset.withFetchWord 16 0xC50F with pending := [.tick (some 0xA7)] })) =
      some (0x07, 0, 0x202) := by decide

/-! ### Address register and memory: V-M1 to V-M12 -/

theorem test_ld_i : (stepWord 0xA123 State.reset).map (·.i) = some 0x123 := by decide
theorem test_add_i_wraps : (stepWord 0xF01E { withRegs [(0, 1)] with i := 0xFFFF }).map (·.i) = some 0x0000 := by decide
theorem test_ld_f : (stepWord 0xF029 (withRegs [(0, 0x1A)])).map (·.i) = some 0x032 := by decide
theorem test_ld_b : (stepWord 0xF033 { withRegs [(0, 254)] with i := 0x300 }).map (fun t => t.mem.readBytes 0x300 3) =
    some [2, 5, 4] := by decide
theorem test_ld_b_out_of_range :
    (stepWord 0xF033 { withRegs [(0, 255)] with i := 0xFFE }).map (fun t => (t.status, t.mem.readBytes 0xFFE 2, t.pc)) =
      some (.error .memOutOfRange 4096, [0, 0], 0x200) := by decide
theorem test_ld_mem_vx :
    (stepWord 0xF255 { withRegs [(0, 0x11), (1, 0x22), (2, 0x33), (3, 0x44)] with i := 0x400 }).map
      (fun t => (t.mem.readBytes 0x400 4, t.i)) = some ([0x11, 0x22, 0x33, 0], 0x400) := by decide
theorem test_ld_mem_vx_quirk :
    (stepWord 0xF255 { State.reset with i := 0x400, cfg := { Config.Params.hardware with loadStoreIncI := true } }).map (·.i) =
      some 0x403 := by decide
theorem test_ld_vx_mem : (stepWord 0xF265 State.reset).map (fun t => (t.reg 0, t.reg 1, t.reg 2, t.reg 3, t.i)) =
    some (0xF0, 0x90, 0x90, 0, 0) := by decide
theorem test_ld_vx_mem_out_of_range : (stepWord 0xF265 { State.reset with i := 0xFFE }).map (·.status) =
    some (.error .memOutOfRange 4096) := by decide

/-! ### Display: V-D2, V-D9, V-D14 -/

theorem test_cls :
    (stepWord 0x00E0 { State.reset with fb := State.reset.fb.toggle 5 6 }).map (fun t => (t.fb.pixel 5 6, t.dch, t.pc)) =
      some (false, true, 0x202) := by decide
theorem test_drw_clips :
    (stepWord 0xD011 { withByte 0x300 0x300 0xFF with regs := (withRegs [(0, 60)]).regs }).map
      (fun t => ((t.fb.pixel 59 0, t.fb.pixel 60 0, t.fb.pixel 63 0, t.fb.pixel 0 0), t.reg VF, t.dch)) =
      some ((false, true, true, false), 0, true) := by decide
theorem test_drw_length : (stepWord 0xD010 { State.reset with i := 0x1000 }).map (fun t => (t.status, t.pc)) =
    some (.error .spriteLength 0xD010, 0x200) := by decide

/-! ### Keypad and timers: V-K1 to V-K7 -/

theorem test_skp : (stepWord 0xE29E { withRegs [(2, 7)] with key := some 7 }).map (·.pc) = some 0x204 := by decide
theorem test_skp_no_mask : (stepWord 0xE29E { withRegs [(2, 0x17)] with key := some 7 }).map (·.pc) = some 0x202 := by decide
theorem test_sknp : (stepWord 0xE2A1 { withRegs [(2, 7)] with key := some 3 }).map (·.pc) = some 0x204 := by decide
theorem test_sknp_held : (stepWord 0xE2A1 { withRegs [(2, 7)] with key := some 7 }).map (·.pc) = some 0x202 := by decide
theorem test_wait_for_key : seen 3 (stepWord 0xF30A { State.reset with key := some 7 }) = some (7, 0, 0x202) := by decide
theorem test_wait_without_key : seen 3 (stepWord 0xF30A State.reset) = some (0, 0, 0x200) := by decide
theorem test_ld_vx_dt : seen 1 (stepWord 0xF107 { State.reset with dt := 0x2A }) = some (0x2A, 0, 0x202) := by decide
theorem test_ld_dt_vx : (stepWord 0xF015 (withRegs [(0, 0x3C)])).map (fun t => (t.dt, t.st)) = some (0x3C, 0) := by decide
theorem test_ld_st_vx : (stepWord 0xF018 (withRegs [(0, 0x3C)])).map (fun t => (t.dt, t.st)) = some (0, 0x3C) := by decide
theorem test_timer_step :
    (nextOf (perform .timerStep { State.reset with dt := 255, st := 0 })).map (fun t => (t.dt, t.st)) = some (254, 0) := by decide

/-- R186: with nothing queued, the value LD VX, DT reads "may have dropped by any amount" since DT held 0x2A. -/
theorem test_free_timer_steps :
    (nextOf (step { State.reset.withFetchWord 16 0xF107 with dt := 0x2A, pending := [] })).map (·.reg 1) =
      some (BitVec.ofNat 8 (0x2A - Config.timerSteps 0)) := rfl

/-! ### Load and reset: S7, V-R4 -/

theorem test_load : (nextOf (perform (.load [0x60, 0x42]) State.reset)).map
    (fun t => (t.mem.readBytes 0x200 3, t.mem.read 0x1FF, t.mem.read 0x04F)) = some ([0x60, 0x42, 0], 0, 0x80) := by decide
/-- V-R5. -/
theorem test_glyph_bytes :
    State.reset.mem.readBytes 0x000 5 = [0xF0, 0x90, 0x90, 0x90, 0xF0] ∧
    State.reset.mem.readBytes 0x005 5 = [0x20, 0x60, 0x20, 0x20, 0x70] ∧
    State.reset.mem.readBytes 0x04B 5 = [0xF0, 0x80, 0xF0, 0x80, 0x80] := by decide
theorem test_power_on_tick : (nextOf (step State.reset)).map (·.status) = some (.error .decodeFault 0x0000) := by decide

/-! ### Witnesses: for each obligation with hypotheses (and each clause of it), a state and operands that meet them all

The name says which obligation and clause. -/

/-- Two registers, a sprite byte of memory and a quirk away from reset: a state the hypotheses are tried in. -/
def sample : State := { withRegs [(0, 250), (1, 10)] with i := 0x300 }

/-- A state about to run the word `w` at the last address a word can be fetched from. -/
def atEnd (w : Nat) : State := { State.reset with pc := 0xFFE }.withFetchWord 16 w

theorem test_witness_DecodeOfEncodeIsInstruction :
    (Instr.sys 0x0DF).wf = true ∧ (Instr.sys 0xFFF).wf = true ∧ (Instr.drw 15 15 15).wf = true := by decide

theorem test_witness_EncodeOfDecodeIsWord : decode 0xFF65 = .ok (.ldVxMem 15) := by decide

theorem test_witness_DecodeRejectsExactlyReservedWords : decode 0xFFFF = .error .reservedFamilyF := by decide

theorem test_witness_WordReadIsBigEndian :
    memRead2 [] 4094 = .ok 0 ∧ memRead2 [] 4095 = .error 4096 ∧ memRead2 [] 4096 = .error 4096 := by decide

theorem test_witness_SegmentReadIsAtomic_error : 1 ≤ 2 ∧ 4096 ≤ (0xFFF : Word).toNat + 2 - 1 := by decide

theorem test_witness_SegmentReadIsAtomic_ok : 1 ≤ 1 ∧ (0xFFF : Word).toNat + 1 - 1 < 4096 := by decide

theorem test_witness_WritesStoreExactlyTheirBytes_error :
    Memory.wf [(0x300, 1)] = true ∧ ([1, 2] : List Byte) ≠ [] ∧ 4096 ≤ (0xFFF : Word).toNat + ([1, 2] : List Byte).length - 1 := by
  decide

theorem test_witness_WritesStoreExactlyTheirBytes_ok :
    Memory.wf [(0x300, 1)] = true ∧ ([1] : List Byte) ≠ [] ∧ (0xFFF : Word).toNat + ([1] : List Byte).length - 1 < 4096 := by decide

theorem test_witness_CanonicalMemoriesAreUnique :
    Memory.wf (Memory.write [] 0x300 1) = true ∧ Memory.wf [(0x300, 1)] = true ∧
    ∀ a, (Memory.write [] 0x300 1).read a = Memory.read [(0x300, 1)] a := ⟨by decide, by decide, fun _ => rfl⟩

/-- The two clauses about the queue, in a terminal `STATUS` and with a command that is no `TICK`. -/
theorem test_witness_StepRunsDecodedInstruction_commands :
    ({ sample with status := .finished } : State).pending = [] ∧
    ({ sample with pending := [.timerStep, .reset] } : State).pending = .timerStep :: [.reset] := by decide

theorem test_witness_StepRunsDecodedInstruction_free :
    let s := { atEnd 0x6042 with pending := [] }
    s.status = .normal ∧ s.pc.toNat = 4094 ∧ s.pending = [] ∧
    decode (wordOfBytes (s.mem.read 4094) (s.mem.read 4095)) = .ok (.ldImm 0 0x42) := by decide

theorem test_witness_StepRunsDecodedInstruction_queued :
    let s := { atEnd 0xC50F with pending := [.tick (some 0xA7), .reset] }
    s.status = .normal ∧ s.pc.toNat = 4094 ∧ s.pending = .tick (some 0xA7) :: [.reset] ∧
    decode (wordOfBytes (s.mem.read 4094) (s.mem.read 4095)) = .ok (.rnd 5 0x0F) := by decide

theorem test_witness_TickFollowsProtocol : ∃ t, tick (some 3) sample = .next t := ⟨_, rfl⟩

theorem test_witness_TerminalStatusIsSticky :
    ({ sample with status := .finished } : State).status ≠ .normal ∧
    ({ sample with status := .error .stackOverflow 0x2200 } : State).status ≠ .normal := by decide

/-- The hypotheses of FaultsArePrecise and FaultInfoIsWordOrAddress, with the info of V-F6 and of V-F10. -/
theorem test_witness_FaultsArePrecise_word :
    (atEnd 0x00EE).status = .normal ∧ ∃ t, tick none (atEnd 0x00EE) = .next t ∧ t.status = .error .stackUnderflow 0x00EE :=
  ⟨rfl, _, rfl, rfl⟩

theorem test_witness_FaultInfoIsWordOrAddress_address :
    let s := { State.reset with pc := 0xFFF }
    s.status = .normal ∧ ∃ t, tick none s = .next t ∧ t.status = .error .memOutOfRange 4096 := ⟨rfl, _, rfl, rfl⟩

theorem test_witness_ReexecutionReportsTheSameFault :
    (atEnd 0x0123).status = .normal ∧ ∃ t, tick (some 1) (atEnd 0x0123) = .next t ∧ t.status = .error .decodeFault 0x0123 :=
  ⟨rfl, _, rfl, rfl⟩

theorem test_witness_OnlyListedInstructionsFault :
    fullStack.status = .normal ∧ ∃ t, exec (.call 0x200) fullStack = .next t ∧ t.status = .error .stackOverflow 0x2200 :=
  ⟨rfl, _, rfl, rfl⟩

theorem test_witness_DisplayChangedMarksClsAndDrw : ∃ t, tick none (atEnd 0x00E0) = .next t ∧ t.dch = true := ⟨_, rfl, rfl⟩

theorem test_witness_RandomByteReachesOnlyRnd :
    (∀ w x nn, fetch (atEnd 0x6042) = .ok w → decode w ≠ .ok (.rnd x nn)) ∧ ∃ t, tick (some 5) (atEnd 0x6042) = .next t := by
  refine ⟨fun w x nn hw hd => ?_, _, rfl⟩
  have hf : fetch (atEnd 0x6042) = .ok 0x6042 := by decide
  have hi : decode 0x6042 = .ok (.ldImm 0 0x42) := by decide
  rw [hf] at hw
  cases hw
  rw [hi] at hd
  cases hd

/-- A CALL with one slot of the stack free, and every field of the invariant in use. -/
theorem test_witness_EveryStepKeepsInvariant :
    let s := { atEnd 0x2ABC with stack := List.replicate 15 0x1000, image := [0x60] }
    s.Inv ∧ ∃ t, step s = .next t := by
  refine ⟨⟨by decide, by decide, by decide, ?_, by decide, ?_, ?_, ?_⟩, _, rfl⟩
  · intro a ha
    rw [List.eq_of_mem_replicate ha]
    decide
  · intro h
    cases h
  · intro _ h
    cases h
  · intro _ _ h
    cases h

theorem test_witness_ProgramCounterRule : State.reset.status = .normal ∧ ∃ t, exec (.jpV0 0xFFF) State.reset = .next t :=
  ⟨rfl, _, rfl⟩

/-- The hypothesis of OnlyTheirInstructionsWriteDisplayAndStack, for each of the two parts. -/
theorem test_witness_OnlyTheirInstructionsWriteDisplayAndStack :
    (∃ t, exec .cls State.reset = .next t ∧ t.dch = true) ∧ ∃ t, exec (.call 0x210) State.reset = .next t ∧ t.stack = [0x202] :=
  ⟨⟨_, rfl, rfl⟩, _, rfl, rfl⟩

theorem test_witness_OnlyTwoInstructionsStoreToMemory :
    (∀ x, Instr.ldVxMem 15 ≠ .ldB x) ∧ (∀ x, Instr.ldVxMem 15 ≠ .ldMemVx x) ∧ ∃ t, exec (.ldVxMem 15) sample = .next t :=
  ⟨by decide, by decide, _, rfl⟩

theorem test_witness_OnlyItsInstructionsWriteI :
    ∃ t, exec (.ldMemVx 2) { sample with cfg := { Config.Params.hardware with loadStoreIncI := true } } = .next t ∧ t.i = 0x303 :=
  ⟨_, rfl, rfl⟩

theorem test_witness_InstructionsLeaveHostStateAlone : ∃ t, exec (.ldDtVx 0) sample = .next t ∧ t.dt = 250 := ⟨_, rfl, by decide⟩

theorem test_witness_NoInstructionReadsSoundTimer : ∃ t, exec (.ldStVx 0) sample = .next t ∧ t.st = 250 := ⟨_, rfl, by decide⟩

theorem test_witness_SysFaultsOrOnlyAdvances :
    State.reset.cfg.sysPolicy = .fault ∧
    ({ State.reset with cfg := { Config.Params.hardware with sysPolicy := .nop } } : State).cfg.sysPolicy = .nop := by decide

theorem test_witness_RetPopsIntoPc :
    ({ State.reset with stack := [0x206] } : State).stack = 0x206 :: [] ∧ State.reset.sp = 0 := by decide

theorem test_witness_CallPushesAndJumps :
    ({ State.reset with stack := List.replicate 15 0x202 } : State).sp = 15 ∧ 16 ≤ fullStack.sp := by decide

theorem test_witness_ReturnContinuesAfterCall :
    let s := { State.reset with stack := List.replicate 15 0x202 }
    s.sp < 16 ∧ ∃ t u : State, exec (.call 0x300) s = .next t ∧ u.stack = t.stack ∧ u.cfg = s.cfg :=
  ⟨by decide, _, _, rfl, rfl, rfl⟩

theorem test_witness_LogicIsBitwise :
    (Instr.orReg 0 15 = .orReg 0 15 ∧ or = or) ∧ (Instr.andReg 0 15 = .andReg 0 15 ∧ and = and) ∧
    (Instr.xorReg 0 15 = .xorReg 0 15 ∧ xor = xor) := ⟨⟨rfl, rfl⟩, ⟨rfl, rfl⟩, rfl, rfl⟩

theorem test_witness_SubtractionsWrapAndBorrow :
    (Instr.sub 0 1 = .sub 0 1 ∧ 250 = (sample.reg 0).toNat ∧ 10 = (sample.reg 1).toNat) ∧
    (Instr.subn 0 1 = .subn 0 1 ∧ 10 = (sample.reg 1).toNat ∧ 250 = (sample.reg 0).toNat) := by decide

/-- The highest `I` at which LD B succeeds and the lowest at which it faults (R123). -/
theorem test_witness_BcdStoresThreeDigits :
    sample.mem.wf = true ∧ ({ sample with i := 0xFFD } : State).i.toNat + 2 < 4096 ∧
    4096 ≤ ({ sample with i := 0xFFE } : State).i.toNat + 2 := by decide

/-- V-M8 and V-M9: the hypotheses of BulkStoreWritesRegisters, BulkLoadReadsRegisters and BulkLoadUndoesBulkStore at their edge. -/
theorem test_witness_BulkStoreWritesRegisters :
    sample.mem.wf = true ∧ ({ sample with i := 0xFF0 } : State).i.toNat + (15 : Reg).val < 4096 ∧
    4096 ≤ ({ sample with i := 0xFF1 } : State).i.toNat + (15 : Reg).val := by decide

theorem test_witness_BulkLoadUndoesBulkStore :
    let s := { sample with i := 0xFF0 }
    s.mem.wf = true ∧ s.i.toNat + (15 : Reg).val < 4096 ∧
    ∃ t u : State, exec (.ldMemVx 15) s = .next t ∧ u.mem = t.mem ∧ u.i = s.i := ⟨by decide, by decide, _, _, rfl, rfl, rfl⟩

/-- V-D11, V-D9 and V-D10: the three clauses of DrwBlitsAndReportsCollision. -/
theorem test_witness_DrwBlitsAndReportsCollision :
    ((1 : Fin 16) ≠ 0 ∧ ({ sample with i := 0xFFF } : State).i.toNat + (1 : Fin 16).val - 1 < 4096) ∧ (0 : Fin 16) = 0 ∧
    ((2 : Fin 16) ≠ 0 ∧ 4096 ≤ ({ sample with i := 0xFFF } : State).i.toNat + (2 : Fin 16).val - 1) := by decide

theorem test_witness_WaitForKey : State.reset.key = none ∧ ({ State.reset with key := some 15 } : State).key = some 15 := by decide

/-- The commands of the schedule of program P4, with a key set among them. -/
theorem test_witness_TimerStepCountsDown :
    ∀ c ∈ [Command.timerStep, .setKey (some 7), .timerStep, .setKey none], c.betweenTicks = true := by simp [Command.betweenTicks]

/-- V-D17: the last pixel of the grid, and the first column and the first row outside it. -/
theorem test_witness_HostReadsChangeNothing : (63 < 64 ∧ 31 < 32) ∧ ¬ (64 < 64 ∧ 0 < 32) ∧ ¬ (0 < 64 ∧ 32 < 32) := by decide

/-- The longest image there is. -/
theorem test_witness_ResetRebuildsTheMachine : ({ sample with image := List.replicate 3584 0x60 } : State).image.length ≤ 3584 :=
  le_of_eq List.length_replicate

end Sys2Proof.Machine.Tests
end

section
/-! The control-flow statements (40_flow.md). The jump and the four compare-and-skip instructions: what `exec` runs for each,
and one lemma about `skipIf` from which the four skips follow. -/

namespace Sys2Proof.Machine

/-! ### What `exec` runs for each instruction -/

theorem exec_jp (nnn : Addr12) (s : State) : exec (.jp nnn) s = .next (s.setPc (zext16 nnn)) := rfl

theorem exec_seImm (x : Reg) (nn : Byte) (s : State) : exec (.seImm x nn) s = .next (s.skipIf (s.reg x == nn)) := rfl

theorem exec_sneImm (x : Reg) (nn : Byte) (s : State) : exec (.sneImm x nn) s = .next (s.skipIf (s.reg x != nn)) := rfl

theorem exec_seReg (x y : Reg) (s : State) : exec (.seReg x y) s = .next (s.skipIf (s.reg x == s.reg y)) := rfl

theorem exec_sneReg (x y : Reg) (s : State) : exec (.sneReg x y) s = .next (s.skipIf (s.reg x != s.reg y)) := rfl

/-! ### The whole next state of a skip -/

/-- A skip whose test decides `p` changes `pc` alone (R89 b). -/
theorem State.skipIf_eq_of_iff (s : State) {c : Bool} {p : Prop} [Decidable p] (h : c = true ↔ p) :
    s.skipIf c = { s with pc := if p then s.pc + 4 else s.pc + 2 } := by
  by_cases hp : p
  · have hc : c = true := h.2 hp
    rw [hc, if_pos hp]
    rfl
  · have hc : c = false := Bool.eq_false_iff.2 fun hc => hp (h.1 hc)
    rw [hc, if_neg hp]
    rfl

/-! ### The statements -/

/-- Settles O30: the target that `JP` zero-extends by its value is the address field at width 16. -/
theorem jumpSetsPc : Obligations.JumpSetsPc := by
  intro nnn s
  rw [exec_jp, zext16_eq]
  rfl

/-- Settles O34: each of the four is a `skipIf` whose test decides the equality or the inequality named. -/
theorem compareSkips : Obligations.CompareSkips := by
  intro x y nn s
  refine ⟨?seImm, ?sneImm, ?seReg, ?sneReg⟩
  case seImm => rw [exec_seImm, s.skipIf_eq_of_iff beq_iff_eq]
  case sneImm => rw [exec_sneImm, s.skipIf_eq_of_iff bne_iff_ne]
  case seReg => rw [exec_seReg, s.skipIf_eq_of_iff beq_iff_eq]
  case sneReg => rw [exec_sneReg, s.skipIf_eq_of_iff bne_iff_ne]

end Sys2Proof.Machine
end

section
/-! The arithmetic and shift statements (41_alu.md). What `exec` runs for each instruction, the result and the flag it writes as the
numbers R106 to R110 name, and one lemma about an instruction that writes registers alone, from which the statements follow. -/

namespace Sys2Proof.Machine

/-! ### What `exec` runs for each instruction -/

theorem exec_addReg (x y : Reg) (s : State) : exec (.addReg x y) s =
    .next (writeResultFlag x (s.reg x + s.reg y) (carry (s.reg x) (s.reg y)) s).advance := rfl

theorem exec_sub (x y : Reg) (s : State) : exec (.sub x y) s =
    .next (writeResultFlag x (s.reg x - s.reg y) (noBorrow (s.reg x) (s.reg y)) s).advance := rfl

theorem exec_subn (x y : Reg) (s : State) : exec (.subn x y) s =
    .next (writeResultFlag x (s.reg y - s.reg x) (noBorrow (s.reg y) (s.reg x)) s).advance := rfl

theorem exec_shr (x y : Reg) (s : State) : exec (.shr x y) s =
    .next (writeShift x (shiftOperand x y s >>> 1) (lostRight (shiftOperand x y s)) s).advance := rfl

theorem exec_shl (x y : Reg) (s : State) : exec (.shl x y) s =
    .next (writeShift x (shiftOperand x y s <<< 1) (lostLeft (shiftOperand x y s)) s).advance := rfl

/-! ### The results as numbers -/

theorem sub_eq_ofInt (a b : Byte) : a - b = BitVec.ofInt 8 (((a.toNat : Int) - (b.toNat : Int)) % 256) :=
  BitVec.eq_of_toNat_eq (by have := a.isLt; have := b.isLt; rw [BitVec.toNat_sub, BitVec.toNat_ofInt]; omega)

theorem shiftRight_one_eq_ofNat (a : Byte) : a >>> 1 = BitVec.ofNat 8 (a.toNat / 2) :=
  BitVec.eq_of_toNat_eq (by
    have := a.isLt
    rw [BitVec.toNat_ushiftRight, Nat.shiftRight_eq_div_pow, BitVec.toNat_ofNat]
    omega)

theorem shiftLeft_one_eq_ofNat (a : Byte) : a <<< 1 = BitVec.ofNat 8 (a.toNat * 2 % 256) :=
  BitVec.eq_of_toNat_eq (by rw [BitVec.toNat_shiftLeft, Nat.shiftLeft_eq, BitVec.toNat_ofNat]; omega)

/-! ### The flags as numbers -/

theorem flagByte_decide (p : Prop) [Decidable p] : flagByte (decide p) = if p then 1 else 0 := by
  by_cases hp : p <;> simp [flagByte, hp]

theorem flagByte_carry (a b : Byte) : flagByte (carry a b) = if a.toNat + b.toNat > 255 then 1 else 0 :=
  flagByte_decide (255 < a.toNat + b.toNat)

theorem flagByte_noBorrow (a b : Byte) : flagByte (noBorrow a b) = if a.toNat ≥ b.toNat then 1 else 0 :=
  flagByte_decide (b.toNat ≤ a.toNat)

theorem flagByte_eq_ofNat (f : Bool) : flagByte f = BitVec.ofNat 8 f.toNat := by cases f <;> rfl

theorem flagByte_getLsbD (a : Byte) (k : Nat) : flagByte (a.getLsbD k) = BitVec.ofNat 8 (a.toNat / 2 ^ k % 2) := by
  rw [flagByte_eq_ofNat, BitVec.getLsbD, Nat.toNat_testBit]

theorem flagByte_lostRight (a : Byte) : flagByte (lostRight a) = BitVec.ofNat 8 (a.toNat % 2) := by
  rw [lostRight, flagByte_getLsbD, pow_zero, Nat.div_one]

theorem flagByte_lostLeft (a : Byte) : flagByte (lostLeft a) = BitVec.ofNat 8 (a.toNat / 128) := by
  have hbit : a.toNat / 2 ^ 7 % 2 = a.toNat / 128 := by have := a.isLt; omega
  rw [lostLeft, flagByte_getLsbD, hbit]

/-! ### Instructions that write registers alone -/

/-- An instruction that advances from a state that differs from `s` in its registers alone: what its registers read is all there
is to know of it. -/
theorem exec_advance_of_regs {i : Instr} {s u : State} {regs : Regs} {value : Reg → Byte}
    (hexec : exec i s = .next u.advance) (hu : u = { s with regs := regs }) (hreg : ∀ r, u.reg r = value r) :
    ∃ t, exec i s = .next t ∧ (∀ r, t.reg r = value r) ∧ t.pc = s.pc + 2 ∧ t = { s with regs := t.regs, pc := t.pc } ∧
      s.MemorySame t := by
  subst hu
  exact ⟨_, hexec, hreg, rfl, rfl, fun _ => rfl⟩

theorem writeResultFlag_eq (s : State) (x : Reg) (v : Byte) (f : Bool) :
    writeResultFlag x v f s = { s with regs := (writeResultFlag x v f s).regs } := by
  unfold writeResultFlag; split <;> rfl

theorem writeShift_eq (s : State) (x : Reg) (v : Byte) (f : Bool) :
    writeShift x v f s = { s with regs := (writeShift x v f s).regs } := rfl

/-- ADD, SUB and SUBN: with `X = 0xF` the write that `VF_ORDER_ADDSUB` puts last wins (R113). -/
theorem exec_writeResultFlag {i : Instr} {s : State} {x : Reg} {v result flag : Byte} {f : Bool}
    (hexec : exec i s = .next (writeResultFlag x v f s).advance) (hv : v = result) (hf : flagByte f = flag) :
    ∃ t, exec i s = .next t ∧
      (∀ r, t.reg r =
        if s.cfg.vfOrderAddSub = .flagLast then (if r = VF then flag else if r = x then result else s.reg r)
        else (if r = x then result else if r = VF then flag else s.reg r)) ∧
      t.pc = s.pc + 2 ∧ t = { s with regs := t.regs, pc := t.pc } ∧ s.MemorySame t := by
  subst hv hf
  refine exec_advance_of_regs hexec (writeResultFlag_eq s x v f) fun r => ?_
  rw [writeResultFlag_reg]
  cases s.cfg.vfOrderAddSub <;> rfl

/-- SHR and SHL: the result is written last (R113). -/
theorem exec_writeShift {i : Instr} {s : State} {x : Reg} {v result flag : Byte} {f : Bool}
    (hexec : exec i s = .next (writeShift x v f s).advance) (hv : v = result) (hf : flagByte f = flag) :
    ∃ t, exec i s = .next t ∧ (∀ r, t.reg r = if r = x then result else if r = VF then flag else s.reg r) ∧
      t.pc = s.pc + 2 ∧ t = { s with regs := t.regs, pc := t.pc } ∧ s.MemorySame t := by
  subst hv hf
  exact exec_advance_of_regs hexec (writeShift_eq s x v f) (writeShift_reg s x v f)

/-! ### The statements -/

/-- Settles O38: the sum and its carry, in the order of the two writes. -/
theorem addWrapsAndCarries : Obligations.AddWrapsAndCarries := fun x y s =>
  exec_writeResultFlag (exec_addReg x y s) (add_eq_ofNat (s.reg x) (s.reg y)) (flagByte_carry (s.reg x) (s.reg y))

/-- Settles O39: SUB and SUBN differ only in which operand is the minuend. -/
theorem subtractionsWrapAndBorrow : Obligations.SubtractionsWrapAndBorrow := by
  rintro i x y a b s (⟨rfl, rfl, rfl⟩ | ⟨rfl, rfl, rfl⟩)
  case inl =>
    exact exec_writeResultFlag (exec_sub x y s) (sub_eq_ofInt (s.reg x) (s.reg y)) (flagByte_noBorrow (s.reg x) (s.reg y))
  case inr =>
    exact exec_writeResultFlag (exec_subn x y s) (sub_eq_ofInt (s.reg y) (s.reg x)) (flagByte_noBorrow (s.reg y) (s.reg x))

/-- Settles O40: the operand the statement names is `shiftOperand`, and each shift writes the lost bit, then the result. -/
theorem shiftsByOnePlace : Obligations.ShiftsByOnePlace := fun x y s =>
  let operand := shiftOperand x y s
  ⟨exec_writeShift (exec_shr x y s) (shiftRight_one_eq_ofNat operand) (flagByte_lostRight operand),
    exec_writeShift (exec_shl x y s) (shiftLeft_one_eq_ofNat operand) (flagByte_lostLeft operand)⟩

end Sys2Proof.Machine
end

section
/-! The address-register statement (42_index_memory.md): what `exec` runs for `LD I`, and the whole next state. -/

namespace Sys2Proof.Machine

/-! ### What `exec` runs for the instruction -/

theorem exec_ldI (nnn : Addr12) (s : State) : exec (.ldI nnn) s = .next (s.setI (zext16 nnn)).advance := rfl

/-! ### The whole next state of a write of `I` -/

/-- A write of `I` followed by the advance changes `I` and `pc` alone (R14, R89). -/
theorem State.setI_advance_eq (s : State) (v : Word) : (s.setI v).advance = { s with i := v, pc := s.pc + 2 } := rfl

/-! ### The statement -/

/-- Settles O42: the address that `LD I` zero-extends by its value is the address field at width 16. -/
theorem loadIWritesTheAddress : Obligations.LoadIWritesTheAddress := by
  intro nnn s
  rw [exec_ldI, State.setI_advance_eq, zext16_eq]

end Sys2Proof.Machine
end

section
/-! The timer and key statements (44_keypad_timers.md). What `exec` runs for the three timer copies, what `perform` does for SET_KEY,
and the whole next state of a timer write. -/

namespace Sys2Proof.Machine

/-! ### What `exec` and `perform` run -/

theorem exec_ldVxDt (x : Reg) (s : State) : exec (.ldVxDt x) s = .next (s.setReg x s.dt).advance := rfl

theorem exec_ldDtVx (x : Reg) (s : State) : exec (.ldDtVx x) s = .next (s.setDt (s.reg x)).advance := rfl

theorem exec_ldStVx (x : Reg) (s : State) : exec (.ldStVx x) s = .next (s.setSt (s.reg x)).advance := rfl

/-- `perform` has no test of `STATUS` on the way to SET_KEY (R146). -/
theorem perform_setKey (k : Option KeyCode) (s : State) : perform (.setKey k) s = .next (setKey k s) := rfl

/-! ### The whole next state of a write of a timer or the key -/

/-- A write of `DT` followed by the advance changes `DT` and `pc` alone (R144). -/
theorem State.setDt_advance_eq (s : State) (v : Byte) : (s.setDt v).advance = { s with dt := v, pc := s.pc + 2 } := rfl

/-- A write of `ST` followed by the advance changes `ST` and `pc` alone (R145). -/
theorem State.setSt_advance_eq (s : State) (v : Byte) : (s.setSt v).advance = { s with st := v, pc := s.pc + 2 } := rfl

theorem setKey_eq (k : Option KeyCode) (s : State) : setKey k s = { s with key := k } := rfl

/-! ### The statements -/

/-- Settles O54: the read of `DT` writes one register alone, and each of the other two writes one timer alone. -/
theorem timerInstructionsCopy : Obligations.TimerInstructionsCopy := by
  intro x s
  refine ⟨?ldVxDt, ?ldDtVx, ?ldStVx⟩
  case ldVxDt => exact exec_advance_of_regs (exec_ldVxDt x s) rfl fun r => State.setReg_reg s x r s.dt
  case ldDtVx => rw [exec_ldDtVx, State.setDt_advance_eq]
  case ldStVx => rw [exec_ldStVx, State.setSt_advance_eq]

/-- Settles O55: the state `perform` answers is `s` with its key replaced, whatever `STATUS` is. -/
theorem setKeyReplacesTheKey : Obligations.SetKeyReplacesTheKey := by
  intro k s
  rw [perform_setKey, setKey_eq]

end Sys2Proof.Machine
end

section
/-! The encoding statements (30_encoding.md). A word is rebuilt from its fields, and the masks of the opcode map and of the list of
reserved words are conditions on the same fields the decode procedure R64 looks at. -/

namespace Sys2Proof

/-! ### A word is made of its fields -/

theorem fieldOP_lt (w : Word) : fieldOP w < 16 := by
  have := w.isLt
  rw [fieldOP_eq]
  omega

theorem wordNNN_of_fields {w : Word} {op : Nat} (hop : fieldOP w = op) : wordNNN op (fieldNNN w) = w := by
  apply BitVec.eq_of_toNat_eq
  rw [wordNNN_toNat (hop ▸ fieldOP_lt w), fieldNNN_toNat, ← hop, fieldOP_eq]
  omega

theorem wordXNN_of_fields {w : Word} {op : Nat} {nn : Byte} (hop : fieldOP w = op) (hnn : fieldNN w = nn) :
    wordXNN op (fieldX w) nn = w := by
  apply BitVec.eq_of_toNat_eq
  rw [wordXNN_toNat (hop ▸ fieldOP_lt w), ← hnn, fieldX_val, fieldNN_toNat, ← hop, fieldOP_eq]
  omega

theorem wordXYN_of_fields {w : Word} {op : Nat} {n : Fin 16} (hop : fieldOP w = op) (hn : (fieldN w).val = n.val) :
    wordXYN op (fieldX w) (fieldY w) n = w := by
  apply BitVec.eq_of_toNat_eq
  rw [wordXYN_toNat (hop ▸ fieldOP_lt w), ← hn, fieldX_val, fieldY_val, fieldN_val, ← hop, fieldOP_eq]
  omega

/-! ### Decode after encode -/

/-- The word of `SYS NNN` is the word of another instruction only where the address field says so. -/
theorem wordNNN_zero_eq_iff (nnn : Addr12) {k : Nat} (hk : k < 4096) :
    wordNNN 0 nnn = BitVec.ofNat 16 k ↔ nnn = BitVec.ofNat 12 k := by
  simp only [← BitVec.toNat_inj, wordNNN_toNat (op := 0) (by omega), BitVec.toNat_ofNat]
  omega

theorem decodeFamily0_sys {nnn : Addr12} (h : (Instr.sys nnn).wf = true) : decodeFamily0 (wordNNN 0 nnn) = .sys nnn := by
  simp only [Instr.wf, Bool.and_eq_true, bne_iff_ne] at h
  have hcls : wordNNN 0 nnn ≠ 0x00E0 := mt (wordNNN_zero_eq_iff nnn (k := 0x0E0) (by omega)).1 h.1
  have hret : wordNNN 0 nnn ≠ 0x00EE := mt (wordNNN_zero_eq_iff nnn (k := 0x0EE) (by omega)).1 h.2
  rw [decodeFamily0, if_neg hcls, if_neg hret, fieldNNN_wordNNN (by omega)]

/-- Settles O1: the family nibble leads to the arm of the instruction, whose fields are the operands; only `SYS` shares its family
with words told apart by their value. -/
theorem decodeOfEncodeIsInstruction : Obligations.DecodeOfEncodeIsInstruction := by
  intro i h
  cases i
  case sys nnn =>
    have hop : fieldOP (wordNNN 0 nnn) = 0 := fieldOP_wordNNN (by omega) nnn
    simp only [encode, decode, hop, decodeFamily0_sys h]
  case cls => rfl
  case ret => rfl
  all_goals simp [encode, decode, decodeFamily8, decodeFamilyE, decodeFamilyF]

/-! ### Encode after decode -/

theorem encode_decodeFamily0 {w : Word} (hop : fieldOP w = 0) :
    encode (decodeFamily0 w) = w ∧ (decodeFamily0 w).wf = true := by
  have hw : wordNNN 0 (fieldNNN w) = w := wordNNN_of_fields hop
  unfold decodeFamily0
  split
  case isTrue hcls => exact ⟨hcls.symm, rfl⟩
  case isFalse hcls =>
    split
    case isTrue hret => exact ⟨hret.symm, rfl⟩
    case isFalse hret =>
      have hcls' : fieldNNN w ≠ 0x0E0 := fun h => hcls (by rw [← hw, h]; rfl)
      have hret' : fieldNNN w ≠ 0x0EE := fun h => hret (by rw [← hw, h]; rfl)
      exact ⟨hw, by simp only [Instr.wf, Bool.and_eq_true, bne_iff_ne]; exact ⟨hcls', hret'⟩⟩

theorem encode_decodeFamily8 {w : Word} {i : Instr} (hop : fieldOP w = 8) (h : decodeFamily8 w = .ok i) :
    encode i = w ∧ i.wf = true := by
  unfold decodeFamily8 at h
  split at h
  case h_10 => cases h
  all_goals
    next hn =>
      cases h
      exact ⟨wordXYN_of_fields hop hn, rfl⟩

theorem encode_decodeFamilyE {w : Word} {i : Instr} (hop : fieldOP w = 14) (h : decodeFamilyE w = .ok i) :
    encode i = w ∧ i.wf = true := by
  unfold decodeFamilyE at h
  repeat'
    split at h
    next hnn =>
      cases h
      exact ⟨wordXNN_of_fields hop hnn, rfl⟩
  cases h

theorem encode_decodeFamilyF {w : Word} {i : Instr} (hop : fieldOP w = 15) (h : decodeFamilyF w = .ok i) :
    encode i = w ∧ i.wf = true := by
  unfold decodeFamilyF at h
  repeat'
    split at h
    next hnn =>
      cases h
      exact ⟨wordXNN_of_fields hop hnn, rfl⟩
  cases h

/-- The last arm of `decode` is family F: a nibble that is none of 0 to 14 is 15. -/
theorem fieldOP_eq_15 {w : Word} (h : ∀ k < 15, fieldOP w ≠ k) : fieldOP w = 15 := by
  have := fieldOP_lt w
  have := h (fieldOP w)
  omega

/-- Settles O2: along the arms of `decode`, the operands and the family nibble are the fields of the word. -/
theorem encodeOfDecodeIsWord : Obligations.EncodeOfDecodeIsWord := by
  intro w i h
  unfold decode at h
  split at h
  case h_1 hop => cases h; exact encode_decodeFamily0 hop
  case h_6 hop =>
    split at h
    case isTrue hn => cases h; exact ⟨wordXYN_of_fields hop (congrArg Fin.val hn), rfl⟩
    case isFalse hn => cases h
  case h_9 hop => exact encode_decodeFamily8 hop h
  case h_10 hop =>
    split at h
    case isTrue hn => cases h; exact ⟨wordXYN_of_fields hop (congrArg Fin.val hn), rfl⟩
    case isFalse hn => cases h
  case h_14 hop => cases h; exact ⟨wordXYN_of_fields hop rfl, rfl⟩
  case h_15 hop => exact encode_decodeFamilyE hop h
  case h_16 => exact encode_decodeFamilyF (fieldOP_eq_15 (by intro k hk; interval_cases k <;> assumption)) h
  case h_2 hop | h_3 hop | h_11 hop | h_12 hop => cases h; exact ⟨wordNNN_of_fields hop, rfl⟩
  case h_4 hop | h_5 hop | h_7 hop | h_8 hop | h_13 hop => cases h; exact ⟨wordXNN_of_fields hop rfl, rfl⟩

/-! ### The masks as conditions on the fields -/

theorem and_F000_eq_iff {w v : Word} (hv : v.toNat = v.toNat / 4096 * 4096) :
    w &&& 0xF000 = v ↔ fieldOP w = v.toNat / 4096 := by
  rw [← BitVec.toNat_inj, toNat_and_F000, fieldOP_eq]
  omega

theorem and_000F (w : Word) : w &&& 0x000F = BitVec.ofNat 16 (fieldN w).val := by
  apply BitVec.eq_of_toNat_eq
  rw [BitVec.toNat_and, fieldN_val, BitVec.toNat_ofNat, show (0x000F : Word).toNat = 2 ^ 4 - 1 from rfl,
    Nat.and_two_pow_sub_one_eq_mod]
  omega

theorem and_00FF (w : Word) : w &&& 0x00FF = (fieldNN w).setWidth 16 := by
  apply BitVec.eq_of_toNat_eq
  rw [BitVec.toNat_and, BitVec.toNat_setWidth, fieldNN_toNat, show (0x00FF : Word).toNat = 2 ^ 8 - 1 from rfl,
    Nat.and_two_pow_sub_one_eq_mod]
  omega

/-! ### The reserved words -/

/-- The list of R65 in the fields the decode procedure looks at. -/
theorem reservedWord_iff (w : Word) : Machine.reservedWord w ↔
    (fieldOP w = 5 ∧ fieldN w ≠ 0) ∨ (fieldOP w = 9 ∧ fieldN w ≠ 0) ∨
    (fieldOP w = 8 ∧ fieldN w ∈ ([8, 9, 0xA, 0xB, 0xC, 0xD, 0xF] : List (Fin 16))) ∨
    (fieldOP w = 14 ∧ fieldNN w ∉ ([0x9E, 0xA1] : List Byte)) ∨
    (fieldOP w = 15 ∧ fieldNN w ∉ ([0x07, 0x0A, 0x15, 0x18, 0x1E, 0x29, 0x33, 0x55, 0x65] : List Byte)) := by
  have hop : ∀ k : Word, k.toNat = k.toNat / 4096 * 4096 → (w &&& 0xF000 = k ↔ fieldOP w = k.toNat / 4096) :=
    fun k hk => and_F000_eq_iff hk
  have hn : ∀ n : Fin 16, w &&& 0x000F = BitVec.ofNat 16 n.val ↔ fieldN w = n := by
    intro n
    rw [and_000F, ← BitVec.toNat_inj, Fin.ext_iff, BitVec.toNat_ofNat, BitVec.toNat_ofNat]
    omega
  have hnn : ∀ nn : Byte, w &&& 0x00FF = nn.setWidth 16 ↔ fieldNN w = nn := by
    intro nn
    rw [and_00FF, ← BitVec.toNat_inj, ← BitVec.toNat_inj, BitVec.toNat_setWidth, BitVec.toNat_setWidth]
    omega
  have hmemN : w &&& 0x000F ∈ ([8, 9, 0xA, 0xB, 0xC, 0xD, 0xF] : List Word) ↔
      fieldN w ∈ ([8, 9, 0xA, 0xB, 0xC, 0xD, 0xF] : List (Fin 16)) := by
    simp only [List.mem_cons, List.not_mem_nil, or_false, ← hn]
    rfl
  have hmemE : w &&& 0x00FF ∈ ([0x9E, 0xA1] : List Word) ↔ fieldNN w ∈ ([0x9E, 0xA1] : List Byte) := by
    simp only [List.mem_cons, List.not_mem_nil, or_false, ← hnn]
    rfl
  have hmemF : w &&& 0x00FF ∈ ([0x07, 0x0A, 0x15, 0x18, 0x1E, 0x29, 0x33, 0x55, 0x65] : List Word) ↔
      fieldNN w ∈ ([0x07, 0x0A, 0x15, 0x18, 0x1E, 0x29, 0x33, 0x55, 0x65] : List Byte) := by
    simp only [List.mem_cons, List.not_mem_nil, or_false, ← hnn]
    rfl
  rw [Machine.reservedWord, hmemN, hmemE, hmemF, hop _ rfl, hop _ rfl, hop _ rfl, hop _ rfl, hop _ rfl]
  exact or_congr (and_congr_right' (hn 0).not) (or_congr (and_congr_right' (hn 0).not) Iff.rfl)

theorem decodeFamily8_error_iff (w : Word) : (∃ e, decodeFamily8 w = .error e) ↔
    fieldN w ∈ ([8, 9, 0xA, 0xB, 0xC, 0xD, 0xF] : List (Fin 16)) := by
  unfold decodeFamily8
  generalize fieldN w = n
  fin_cases n <;> simp

theorem decodeFamilyE_error_iff (w : Word) :
    (∃ e, decodeFamilyE w = .error e) ↔ fieldNN w ∉ ([0x9E, 0xA1] : List Byte) := by
  unfold decodeFamilyE
  (repeat' split) <;> simp_all

theorem decodeFamilyF_error_iff (w : Word) : (∃ e, decodeFamilyF w = .error e) ↔
    fieldNN w ∉ ([0x07, 0x0A, 0x15, 0x18, 0x1E, 0x29, 0x33, 0x55, 0x65] : List Byte) := by
  unfold decodeFamilyF
  (repeat' split) <;> simp_all

/-- Settles O4: in each arm of `decode` the family nibble leaves one clause of R65's list, which is when that arm rejects. -/
theorem decodeRejectsExactlyReservedWords : Obligations.DecodeRejectsExactlyReservedWords := by
  intro w
  rw [reservedWord_iff, ← decodeFamily8_error_iff, ← decodeFamilyE_error_iff, ← decodeFamilyF_error_iff]
  unfold decode
  split
  case h_16 =>
    have hop : fieldOP w = 15 := fieldOP_eq_15 (by intro k hk; interval_cases k <;> assumption)
    simp [hop]
  case h_6 hop => by_cases hn : fieldN w = 0 <;> simp [hop, hn]
  case h_10 hop => by_cases hn : fieldN w = 0 <;> simp [hop, hn]
  all_goals
    next hop => simp [hop]

/-! ### The opcode table -/

/-- Why no word matches both rows: their values differ in a bit that both masks keep, or the later row is one word, which the earlier
excludes. -/
def OpcodeRow.separate (a b : OpcodeRow) : Bool :=
  a.value &&& (a.mask &&& b.mask) != b.value &&& (a.mask &&& b.mask) || (b.mask == 0xFFFF && a.excluded.contains b.value)

theorem OpcodeRow.matchesWord_iff {r : OpcodeRow} {w : Word} :
    r.matchesWord w = true ↔ w &&& r.mask = r.value ∧ r.excluded.contains w = false := by
  simp [OpcodeRow.matchesWord]

/-- A word agrees with the value of a row it matches on every bit the row's mask keeps. -/
theorem OpcodeRow.and_eq_of_matches {r : OpcodeRow} {w m : Word} (h : r.matchesWord w = true) (hm : r.mask &&& m = m) :
    w &&& m = r.value &&& m := by
  rw [← (OpcodeRow.matchesWord_iff.1 h).1, BitVec.and_assoc, hm]

theorem OpcodeRow.not_matches_of_separate {a b : OpcodeRow} {w : Word} (h : a.separate b = true)
    (ha : a.matchesWord w = true) : b.matchesWord w = false := by
  rw [Bool.eq_false_iff]
  intro hb
  simp only [OpcodeRow.separate, Bool.or_eq_true, bne_iff_ne, Bool.and_eq_true, beq_iff_eq] at h
  rcases h with hbits | ⟨hmask, hexcl⟩
  case inl =>
    have hma : a.mask &&& (a.mask &&& b.mask) = a.mask &&& b.mask := by rw [← BitVec.and_assoc, BitVec.and_self]
    have hmb : b.mask &&& (a.mask &&& b.mask) = a.mask &&& b.mask := by rw [BitVec.and_comm, BitVec.and_assoc, BitVec.and_self]
    exact hbits ((OpcodeRow.and_eq_of_matches ha hma).symm.trans (OpcodeRow.and_eq_of_matches hb hmb))
  case inr =>
    obtain ⟨-, ha⟩ := OpcodeRow.matchesWord_iff.1 ha
    obtain ⟨hb, -⟩ := OpcodeRow.matchesWord_iff.1 hb
    rw [hmask, and_FFFF] at hb
    rw [hb, hexcl] at ha
    cases ha

theorem opcodeTable_pairwise_separate : opcodeTable.Pairwise fun a b => a.separate b = true := by
  decide

/-- R63 against R62: every instruction is encoded as a word of its row. -/
theorem encodedInItsRow (i : Instr) : Laws.EncodedInItsRow.Statement i :=
  match i with
  | .sys nnn => Laws.EncodedInItsRow.sys nnn
  | .cls => Laws.EncodedInItsRow.cls
  | .ret => Laws.EncodedInItsRow.ret
  | .jp nnn => Laws.EncodedInItsRow.jp nnn
  | .call nnn => Laws.EncodedInItsRow.call nnn
  | .seImm x nn => Laws.EncodedInItsRow.seImm x nn
  | .sneImm x nn => Laws.EncodedInItsRow.sneImm x nn
  | .seReg x y => Laws.EncodedInItsRow.seReg x y
  | .ldImm x nn => Laws.EncodedInItsRow.ldImm x nn
  | .addImm x nn => Laws.EncodedInItsRow.addImm x nn
  | .ldReg x y => Laws.EncodedInItsRow.ldReg x y
  | .orReg x y => Laws.EncodedInItsRow.orReg x y
  | .andReg x y => Laws.EncodedInItsRow.andReg x y
  | .xorReg x y => Laws.EncodedInItsRow.xorReg x y
  | .addReg x y => Laws.EncodedInItsRow.addReg x y
  | .sub x y => Laws.EncodedInItsRow.sub x y
  | .shr x y => Laws.EncodedInItsRow.shr x y
  | .subn x y => Laws.EncodedInItsRow.subn x y
  | .shl x y => Laws.EncodedInItsRow.shl x y
  | .sneReg x y => Laws.EncodedInItsRow.sneReg x y
  | .ldI nnn => Laws.EncodedInItsRow.ldI nnn
  | .jpV0 nnn => Laws.EncodedInItsRow.jpV0 nnn
  | .rnd x nn => Laws.EncodedInItsRow.rnd x nn
  | .drw x y n => Laws.EncodedInItsRow.drw x y n
  | .skp x => Laws.EncodedInItsRow.skp x
  | .sknp x => Laws.EncodedInItsRow.sknp x
  | .ldVxDt x => Laws.EncodedInItsRow.ldVxDt x
  | .ldVxK x => Laws.EncodedInItsRow.ldVxK x
  | .ldDtVx x => Laws.EncodedInItsRow.ldDtVx x
  | .ldStVx x => Laws.EncodedInItsRow.ldStVx x
  | .addI x => Laws.EncodedInItsRow.addI x
  | .ldF x => Laws.EncodedInItsRow.ldF x
  | .ldB x => Laws.EncodedInItsRow.ldB x
  | .ldMemVx x => Laws.EncodedInItsRow.ldMemVx x
  | .ldVxMem x => Laws.EncodedInItsRow.ldVxMem x

/-- In a list whose members exclude each other's matches, a member that matches is the only one. -/
theorem filter_matches_eq_singleton {rows : List OpcodeRow} {w : Word} {r : OpcodeRow}
    (hsep : rows.Pairwise fun a b => a.separate b = true) (hr : r ∈ rows) (hm : r.matchesWord w = true) :
    rows.filter (·.matchesWord w) = [r] := by
  induction rows with
  | nil => cases hr
  | cons a rows ih =>
    obtain ⟨ha, hrows⟩ := List.pairwise_cons.1 hsep
    rcases List.mem_cons.1 hr with rfl | hr
    case inl =>
      have hnone : rows.filter (·.matchesWord w) = [] :=
        List.filter_eq_nil_iff.2 fun b hb => Bool.eq_false_iff.1 (OpcodeRow.not_matches_of_separate (ha b hb) hm)
      rw [List.filter_cons, if_pos hm, hnone]
    case inr =>
      have hna : ¬ a.matchesWord w = true := fun h =>
        Bool.eq_false_iff.1 (OpcodeRow.not_matches_of_separate (ha r hr) h) hm
      rw [List.filter_cons, if_neg hna, ih hrows hr]

/-- The masks of the rows keep the bits by which R65 tells the reserved words of their families. -/
theorem opcodeTable_masks : ∀ r ∈ opcodeTable, r.mask &&& 0xF000 = 0xF000 ∧
    (r.value &&& 0xF000 ∈ ([0x5000, 0x8000, 0x9000] : List Word) → r.mask &&& 0x000F = 0x000F) ∧
    (r.value &&& 0xF000 ∈ ([0xE000, 0xF000] : List Word) → r.mask &&& 0x00FF = 0x00FF) := by
  decide

theorem opcodeTable_values_not_reserved : ∀ r ∈ opcodeTable, ¬ Machine.reservedWord r.value := by
  unfold Machine.reservedWord
  decide

/-- A word that matches a row is reserved only where the row's own value is, and that it never is. -/
theorem not_reserved_of_matches {r : OpcodeRow} (hr : r ∈ opcodeTable) {w : Word} (hm : r.matchesWord w = true) :
    ¬ Machine.reservedWord w := by
  obtain ⟨hop, hlow4, hlow8⟩ := opcodeTable_masks r hr
  have hfam : w &&& 0xF000 = r.value &&& 0xF000 := OpcodeRow.and_eq_of_matches hm hop
  have hN (h : r.value &&& 0xF000 ∈ ([0x5000, 0x8000, 0x9000] : List Word)) : w &&& 0x000F = r.value &&& 0x000F :=
    OpcodeRow.and_eq_of_matches hm (hlow4 h)
  have hNN (h : r.value &&& 0xF000 ∈ ([0xE000, 0xF000] : List Word)) : w &&& 0x00FF = r.value &&& 0x00FF :=
    OpcodeRow.and_eq_of_matches hm (hlow8 h)
  refine fun hw => opcodeTable_values_not_reserved r hr ?_
  unfold Machine.reservedWord at hw ⊢
  rw [hfam] at hw
  rcases hw with ⟨h, hn⟩ | ⟨h, hn⟩ | ⟨h, hn⟩ | ⟨h, hn⟩ | ⟨h, hn⟩
  · exact .inl ⟨h, hN (by rw [h]; decide) ▸ hn⟩
  · exact .inr (.inl ⟨h, hN (by rw [h]; decide) ▸ hn⟩)
  · exact .inr (.inr (.inl ⟨h, hN (by rw [h]; decide) ▸ hn⟩))
  · exact .inr (.inr (.inr (.inl ⟨h, hNN (by rw [h]; decide) ▸ hn⟩)))
  · exact .inr (.inr (.inr (.inr ⟨h, hNN (by rw [h]; decide) ▸ hn⟩)))

/-- Settles O3: a recognized word is the encoding of its instruction and so matches its row and, the rows being separate, no other;
a rejected word is reserved and matches none. -/
theorem decodeAgreesWithOpcodeTable : Obligations.DecodeAgreesWithOpcodeTable := by
  intro w
  cases hd : decode w with
  | error e =>
    have hres : Machine.reservedWord w := (decodeRejectsExactlyReservedWords w).1 ⟨e, hd⟩
    rw [List.filter_eq_nil_iff.2 fun r hr hm => not_reserved_of_matches hr hm hres]
    rfl
  | ok i =>
    obtain ⟨rfl, hwf⟩ := encodeOfDecodeIsWord w i hd
    obtain ⟨r, hr, hrow, hm⟩ := encodedInItsRow i hwf
    rw [filter_matches_eq_singleton opcodeTable_pairwise_separate hr hm]
    exact congrArg (fun row => [row]) hrow

/-! ### Words written out -/

/-- Settles O5: each word is decoded by its fields. -/
theorem sampleWordsDecode : Obligations.SampleWordsDecode := by
  unfold Obligations.SampleWordsDecode
  decide

end Sys2Proof
end

section
/-! The whole-machine rules. `exec_cases` says that an instruction faults or completes; here is what a completed instruction leaves
unchanged, part of the state by part, and what a fault depends on. -/

namespace Sys2Proof.Machine

/-! ### The next state of an instruction -/

theorem exec_next {i : Instr} {s t : State} (h : exec i s = .next t) :
    (∃ cause info, Raises s i cause info ∧ t = s.faulted cause info) ∨
    ((∀ cause info, ¬ Raises s i cause info) ∧ t = completed i s) := by
  rcases exec_cases i s with ⟨cause, info, hr, he⟩ | ⟨hn, he⟩
  · rw [he] at h
    cases h
    exact .inl ⟨cause, info, hr, rfl⟩
  · rw [he] at h
    cases h
    exact .inr ⟨hn, rfl⟩

/-! ### What a completed instruction leaves unchanged -/

/-- The parts of the state that no completed instruction writes. -/
theorem completed_keeps (i : Instr) (s : State) :
    (completed i s).status = s.status ∧ (completed i s).key = s.key ∧ (completed i s).image = s.image ∧
    (completed i s).cfg = s.cfg ∧ (completed i s).pending = s.pending ∧ (completed i s).rnd = s.rnd ∧
    (completed i s).ticks = s.ticks := by
  cases i
  case ldVxK x => cases hk : s.key <;> simp [completed, hk]
  all_goals simp [completed]

@[simp] theorem completed_status (i : Instr) (s : State) : (completed i s).status = s.status := (completed_keeps i s).1

theorem completed_dt (i : Instr) (s : State) : (completed i s).dt = s.dt ∨ ∃ x, i = .ldDtVx x ∧ (completed i s).dt = s.reg x := by
  cases i
  case ldDtVx x => exact .inr ⟨x, rfl, rfl⟩
  case ldVxK x => left; cases hk : s.key <;> simp [completed, hk]
  all_goals left; simp [completed]

theorem completed_st (i : Instr) (s : State) : (completed i s).st = s.st ∨ ∃ x, i = .ldStVx x ∧ (completed i s).st = s.reg x := by
  cases i
  case ldStVx x => exact .inr ⟨x, rfl, rfl⟩
  case ldVxK x => left; cases hk : s.key <;> simp [completed, hk]
  all_goals left; simp [completed]

theorem completed_fb (i : Instr) (s : State) : (completed i s).fb = s.fb ∨ i = .cls ∨ ∃ x y n, i = .drw x y n := by
  cases i
  case cls => exact .inr (.inl rfl)
  case drw x y n => exact .inr (.inr ⟨x, y, n, rfl⟩)
  case ldVxK x => left; cases hk : s.key <;> simp [completed, hk]
  all_goals left; simp [completed]

theorem completed_stack (i : Instr) (s : State) : (completed i s).stack = s.stack ∨ i = .ret ∨ ∃ nnn, i = .call nnn := by
  cases i
  case ret => exact .inr (.inl rfl)
  case call nnn => exact .inr (.inr ⟨nnn, rfl⟩)
  case ldVxK x => left; cases hk : s.key <;> simp [completed, hk]
  all_goals left; simp [completed]

theorem completed_mem (i : Instr) (s : State) : (completed i s).mem = s.mem ∨ (∃ x, i = .ldB x) ∨ ∃ x, i = .ldMemVx x := by
  cases i
  case ldB x => exact .inr (.inl ⟨x, rfl⟩)
  case ldMemVx x => exact .inr (.inr ⟨x, rfl⟩)
  case ldVxK x => left; cases hk : s.key <;> simp [completed, hk]
  all_goals left; simp [completed]

theorem bulkNextI_eq_or (x : Reg) (s : State) : bulkNextI x s = s.i ∨ s.cfg.loadStoreIncI = true := by
  unfold bulkNextI
  cases s.cfg.loadStoreIncI <;> simp

theorem completed_i (i : Instr) (s : State) :
    (completed i s).i = s.i ∨ (∃ nnn, i = .ldI nnn) ∨ (∃ x, i = .addI x) ∨ (∃ x, i = .ldF x) ∨
      (s.cfg.loadStoreIncI = true ∧ ∃ x, i = .ldMemVx x ∨ i = .ldVxMem x) := by
  cases i
  case ldI nnn => exact .inr (.inl ⟨nnn, rfl⟩)
  case addI x => exact .inr (.inr (.inl ⟨x, rfl⟩))
  case ldF x => exact .inr (.inr (.inr (.inl ⟨x, rfl⟩)))
  case ldMemVx x => exact (bulkNextI_eq_or x s).imp id fun h => .inr (.inr (.inr ⟨h, x, .inl rfl⟩))
  case ldVxMem x => exact (bulkNextI_eq_or x s).imp id fun h => .inr (.inr (.inr ⟨h, x, .inr rfl⟩))
  case ldVxK x => left; cases hk : s.key <;> simp [completed, hk]
  all_goals left; simp [completed]

/-! ### The program counter -/

theorem isPressed_iff (key : Option KeyCode) (c : Byte) : isPressed key c = true ↔ key.map BitVec.toNat = some c.toNat := by
  cases key <;> simp [isPressed]

theorem isReleased_iff (key : Option KeyCode) (c : Byte) : isReleased key c = true ↔ ¬ key.map BitVec.toNat = some c.toNat := by
  cases key <;> simp [isReleased]

theorem completed_pc (i : Instr) (s : State) : (completed i s).pc = pcAfter i s := by
  cases i
  case ldVxK x => cases hk : s.key <;> simp [completed, pcAfter, hk]
  case skp x => simp only [completed, pcAfter, State.skipIf_pc, isPressed_iff]
  case sknp x => simp only [completed, pcAfter, State.skipIf_pc, isReleased_iff, ite_not]
  all_goals simp [completed, pcAfter, zext16_eq, zext16Byte_eq]

/-! ### What a fault depends on -/

/-- Whether an instruction faults, and how, is a matter of the parameters, the stack and `I` alone. -/
theorem raises_iff_of_eq {s u : State} (hcfg : u.cfg = s.cfg) (hstack : u.stack = s.stack) (hi : u.i = s.i) (i : Instr)
    (cause : FaultCause) (info : Word) : Raises u i cause info ↔ Raises s i cause info := by
  cases s
  cases u
  subst hcfg hstack hi
  constructor
  all_goals
    intro h
    cases h
    all_goals constructor <;> assumption

/-! ### What no instruction reads: the sound timer, and but for RND the random byte -/

/-- `s` with another sound timer and another random input. -/
def State.setStRnd (s : State) (v : Byte) (r : Option Byte) : State := { s with st := v, rnd := r }

@[simp] theorem State.setStRnd_key (s : State) (v : Byte) (r : Option Byte) : (s.setStRnd v r).key = s.key := rfl
@[simp] theorem State.setStRnd_cfg (s : State) (v : Byte) (r : Option Byte) : (s.setStRnd v r).cfg = s.cfg := rfl

theorem skipIf_setStRnd (c : Bool) (s : State) (v : Byte) (r : Option Byte) :
    (s.setStRnd v r).skipIf c = (s.skipIf c).setStRnd v r := by
  cases c <;> rfl

theorem writeResultFlag_setStRnd (x : Reg) (a : Byte) (f : Bool) (s : State) (v : Byte) (r : Option Byte) :
    writeResultFlag x a f (s.setStRnd v r) = (writeResultFlag x a f s).setStRnd v r := by
  simp only [writeResultFlag, State.setStRnd_cfg]
  cases s.cfg.vfOrderAddSub <;> rfl

theorem writeLogic_setStRnd (x : Reg) (a : Byte) (s : State) (v : Byte) (r : Option Byte) :
    writeLogic x a (s.setStRnd v r) = (writeLogic x a s).setStRnd v r := by
  simp only [writeLogic, apply_ite (State.setStRnd · v r)]
  rfl

theorem completed_setStRnd {i : Instr} {s : State} {r : Option Byte} (hr : (∀ x nn, i ≠ .rnd x nn) ∨ r = s.rnd) (v : Byte) :
    completed i (s.setStRnd v r) = (completed i s).setStRnd (if ∃ x, i = .ldStVx x then (completed i s).st else v) r := by
  cases i
  case ldStVx x => rw [if_pos ⟨x, rfl⟩]; rfl
  all_goals rw [if_neg (by rintro ⟨x, hx⟩; cases hx)]
  case rnd x nn =>
    obtain rfl := hr.resolve_left fun h => h x nn rfl
    rfl
  case ldVxK x => simp only [completed, State.setStRnd_key]; cases s.key <;> rfl
  case addReg x y => exact congrArg State.advance (writeResultFlag_setStRnd ..)
  case sub x y => exact congrArg State.advance (writeResultFlag_setStRnd ..)
  case subn x y => exact congrArg State.advance (writeResultFlag_setStRnd ..)
  case orReg x y => exact congrArg State.advance (writeLogic_setStRnd ..)
  case andReg x y => exact congrArg State.advance (writeLogic_setStRnd ..)
  case xorReg x y => exact congrArg State.advance (writeLogic_setStRnd ..)
  case seImm x nn => exact skipIf_setStRnd ..
  case sneImm x nn => exact skipIf_setStRnd ..
  case seReg x y => exact skipIf_setStRnd ..
  case sneReg x y => exact skipIf_setStRnd ..
  case skp x => exact skipIf_setStRnd ..
  case sknp x => exact skipIf_setStRnd ..
  all_goals rfl

/-- An instruction from a state with another sound timer and, unless it is RND, another random input. -/
theorem exec_setStRnd {i : Instr} {s t : State} {r : Option Byte} (hr : (∀ x nn, i ≠ .rnd x nn) ∨ r = s.rnd)
    (h : exec i s = .next t) (v : Byte) :
    exec i (s.setStRnd v r) = .next (t.setStRnd (if ∃ x, i = .ldStVx x then t.st else v) r) := by
  have hraises := raises_iff_of_eq (s := s) (u := s.setStRnd v r) rfl rfl rfl i
  rcases exec_next h with ⟨cause, info, hraise, rfl⟩ | ⟨hn, rfl⟩
  case inl =>
    have hi : ¬ ∃ x, i = .ldStVx x := by rintro ⟨x, rfl⟩; cases hraise
    rw [exec_of_raises ((hraises cause info).2 hraise), if_neg hi]
    rfl
  case inr =>
    rw [exec_of_not_raises fun cause info h => hn cause info ((hraises cause info).1 h), completed_setStRnd hr]

/-! ### The statements -/

/-- Settles O16: a fault is one of `Raises`, whose constructors are the list, and a completed instruction leaves `STATUS` alone. -/
theorem onlyListedInstructionsFault : Obligations.OnlyListedInstructionsFault := by
  intro i s t hs h
  rcases exec_next h with ⟨cause, info, hr, rfl⟩ | ⟨-, rfl⟩
  case inr => exact .inl (by rw [completed_status, hs])
  case inl =>
    refine .inr ⟨cause, info, rfl, ?_⟩
    cases hr
    all_goals simp

/-- Settles O22: a fault leaves `pc` and ends `STATUS` `Normal`, and a completed instruction leaves `STATUS` and sets `pc`. -/
theorem programCounterRule : Obligations.ProgramCounterRule := by
  intro i s t hs h
  rcases exec_next h with ⟨cause, info, -, rfl⟩ | ⟨-, rfl⟩
  · rfl
  · rw [completed_status, if_pos hs, completed_pc]

/-- Settles O23: a fault writes neither, and a completed instruction only as listed. -/
theorem onlyTheirInstructionsWriteDisplayAndStack : Obligations.OnlyTheirInstructionsWriteDisplayAndStack := by
  intro i s t h
  rcases exec_next h with ⟨cause, info, -, rfl⟩ | ⟨-, rfl⟩
  · exact ⟨.inl rfl, .inl rfl⟩
  · exact ⟨completed_fb i s, completed_stack i s⟩

/-- Settles O24: a completed instruction that is neither of the two keeps the whole memory, and so does a fault. -/
theorem onlyTwoInstructionsStoreToMemory : Obligations.OnlyTwoInstructionsStoreToMemory := by
  intro i s t h hb hm a
  rcases exec_next h with ⟨cause, info, -, rfl⟩ | ⟨-, rfl⟩
  · rfl
  · rcases completed_mem i s with hmem | ⟨x, hx⟩ | ⟨x, hx⟩
    · rw [hmem]
    · exact absurd hx (hb x)
    · exact absurd hx (hm x)

/-- Settles O25: a fault leaves `I`, and a completed instruction writes it only as listed. -/
theorem onlyItsInstructionsWriteI : Obligations.OnlyItsInstructionsWriteI := by
  intro i s t h
  rcases exec_next h with ⟨cause, info, -, rfl⟩ | ⟨-, rfl⟩
  · exact .inl rfl
  · exact completed_i i s

/-- Settles O26: the fault entry writes only `STATUS` and `DCH`, and a completed instruction of these parts only its own timer. -/
theorem instructionsLeaveHostStateAlone : Obligations.InstructionsLeaveHostStateAlone := by
  intro i s t h
  rcases exec_next h with ⟨cause, info, -, rfl⟩ | ⟨-, rfl⟩
  · exact ⟨.inl rfl, .inl rfl, rfl, rfl, rfl, rfl, rfl, rfl⟩
  · exact ⟨completed_dt i s, completed_st i s, (completed_keeps i s).2⟩

/-- Settles O27: the random input kept as it is, only the sound timer differs. -/
theorem noInstructionReadsSoundTimer : Obligations.NoInstructionReadsSoundTimer := by
  intro i s t v h
  obtain ⟨-, -, -, -, -, -, hrnd, -⟩ := instructionsLeaveHostStateAlone i s t h
  have hexec := exec_setStRnd (.inr rfl) h v
  simpa only [State.setStRnd, ← hrnd] using hexec

end Sys2Proof.Machine
end

section
/-! The statements about a tick and a step (60_exceptions.md): what a step carries out, when a tick ends in `Error` and with what
state, and that the random byte reaches only RND. -/

namespace Sys2Proof.Machine

/-! ### A step -/

theorem step_of_nil {s : State} (h : s.pending = []) : step s = tick none s.freeHost := by
  simp only [step, nextCommand, h]

theorem step_of_cons {s : State} {c : Command} {cs : List Command} (h : s.pending = c :: cs) :
    step s = perform c { s with pending := cs } := by
  simp only [step, nextCommand, h]

theorem countDownBy_eq_ofNat (n : Nat) (t : Byte) : countDownBy n t = BitVec.ofNat 8 (t.toNat - n) := by
  rw [← countDownBy_toNat, BitVec.ofNat_toNat, BitVec.setWidth_eq]

theorem betweenTicks_eq (n : Nat) (k : Option (Option KeyCode)) (s : State) :
    betweenTicks n k s = { s with
      dt := BitVec.ofNat 8 (s.dt.toNat - n)
      st := BitVec.ofNat 8 (s.st.toNat - n)
      key := match k with
        | none => s.key
        | some key => key } := by
  rw [betweenTicks, countDownBy_eq_ofNat, countDownBy_eq_ofNat]
  cases k <;> rfl

/-- A tick that finds a recognized word at `pc` executes it. -/
theorem tick_of_fetch {s : State} {w : Word} {i : Instr} (hs : s.status = .normal) (hf : fetch s = .ok w)
    (hd : decode w = .ok i) (r : Option Byte) : tick r s = exec i (s.beginTick r) := by
  obtain ⟨hpc, -⟩ := memRead2_ok hf
  rw [tick_running hs (by omega), fetchAndExecute, fetch_beginTick, hf]
  simp only [hd]

/-- Settles O10: the free host is the timers counted down and the key set, and then both clauses about a decoded word are
`tick_of_fetch`. -/
theorem stepRunsDecodedInstruction : Obligations.StepRunsDecodedInstruction := by
  intro s free
  have hfree : s.freeHost = free := betweenTicks_eq _ _ s
  refine ⟨?_, fun c cs h => step_of_cons h, fun r => rfl, fun i hs hpc hd => ⟨?_, ?_⟩⟩
  · intro h
    rw [step_of_nil h, hfree]
  · intro h
    rw [step_of_nil h, hfree]
    exact tick_of_fetch (s := free) hs (fetch_of_le hpc) hd none
  · intro r cs h
    rw [step_of_cons h]
    exact tick_of_fetch (s := { s with pending := cs }) hs (fetch_of_le hpc) hd r

/-! ### Every step has a next state -/

theorem exec_total (i : Instr) (s : State) : ∃ t, exec i s = .next t := by
  rcases exec_cases i s with ⟨cause, info, -, h⟩ | ⟨-, h⟩
  · exact ⟨_, h⟩
  · exact ⟨_, h⟩

theorem tick_total (r : Option Byte) (s : State) : ∃ t, tick r s = .next t := by
  rcases tick_cases s r with ⟨-, h⟩ | ⟨-, -, h⟩ | ⟨-, -, h⟩
  · exact ⟨_, h⟩
  · exact ⟨_, h⟩
  · rw [h]
    rcases fetchAndExecute_cases (s.beginTick r) with ⟨a, -, h⟩ | ⟨w, e, -, -, h⟩ | ⟨w, i, -, -, h⟩
    · exact ⟨_, h⟩
    · exact ⟨_, h⟩
    · rw [h]
      exact exec_total i _

theorem perform_total (c : Command) (s : State) : ∃ t, perform c s = .next t := by
  cases c
  case tick r => exact tick_total r s
  all_goals exact ⟨_, rfl⟩

/-- Settles O12: a tick and every other command answer a next state. -/
theorem everyStepAnswersNext : Obligations.EveryStepAnswersNext := by
  intro s
  cases h : s.pending with
  | nil => rw [step_of_nil h]; exact tick_total none _
  | cons c cs => rw [step_of_cons h]; exact perform_total c _

/-! ### When a tick ends in `Error` -/

/-- The faults of steps 2 to 6 of a tick (R155), with cause and info. -/
inductive TickFaults (s : State) : FaultCause → Word → Prop
  | fetchFails {a : Word} : fetch s = .error a → TickFaults s .memOutOfRange a
  | unrecognized {w : Word} {e : Reject} : fetch s = .ok w → decode w = .error e → TickFaults s .decodeFault w
  | raised {w : Word} {i : Instr} {cause : FaultCause} {info : Word} : fetch s = .ok w → decode w = .ok i →
      Raises s i cause info → TickFaults s cause info

theorem raises_beginTick_iff {s : State} {r : Option Byte} {i : Instr} {cause : FaultCause} {info : Word} :
    Raises (s.beginTick r) i cause info ↔ Raises s i cause info :=
  raises_iff_of_eq (s := s) (u := s.beginTick r) rfl rfl rfl i cause info

/-- What a tick can do, said once with the instruction's part of it: in a terminal `STATUS` or past the end of memory it only says so;
else it takes a fault, or it completes the instruction at `pc`. -/
theorem tick_next {r : Option Byte} {s t : State} (h : tick r s = .next t) :
    (s.status ≠ .normal ∧ t = s.beginTick r) ∨
    (s.status = .normal ∧ 4096 ≤ s.pc.toNat ∧ t = { s.beginTick r with status := .finished }) ∨
    (∃ cause info, s.status = .normal ∧ s.pc.toNat < 4096 ∧ TickFaults s cause info ∧ t = (s.beginTick r).faulted cause info) ∨
    (∃ w i, s.status = .normal ∧ fetch s = .ok w ∧ decode w = .ok i ∧ (∀ cause info, ¬ Raises s i cause info) ∧
      t = completed i (s.beginTick r)) := by
  rcases tick_cases s r with ⟨hs, ht⟩ | ⟨hs, hpc, ht⟩ | ⟨hs, hpc, ht⟩
  case inl => exact .inl ⟨hs, by cases h.symm.trans ht; rfl⟩
  case inr.inl => exact .inr (.inl ⟨hs, hpc, by cases h.symm.trans ht; rfl⟩)
  case inr.inr =>
    rw [ht] at h
    rcases fetchAndExecute_cases (s.beginTick r) with ⟨a, hf, hfe⟩ | ⟨w, e, hf, hd, hfe⟩ | ⟨w, i, hf, hd, hfe⟩
    case inl => exact .inr (.inr (.inl ⟨_, _, hs, hpc, .fetchFails hf, by cases h.symm.trans hfe; rfl⟩))
    case inr.inl => exact .inr (.inr (.inl ⟨_, _, hs, hpc, .unrecognized hf hd, by cases h.symm.trans hfe; rfl⟩))
    case inr.inr =>
      rcases exec_next (hfe.symm.trans h) with ⟨cause, info, hr, rfl⟩ | ⟨hn, rfl⟩
      · exact .inr (.inr (.inl ⟨cause, info, hs, hpc, .raised hf hd (raises_beginTick_iff.1 hr), rfl⟩))
      · exact .inr (.inr (.inr ⟨w, i, hs, hf, hd, fun cause info hr => hn cause info (raises_beginTick_iff.2 hr), rfl⟩))

/-- What a tick from `STATUS` `Normal` that ends in `Error` has done. -/
theorem tick_error {r : Option Byte} {s t : State} {cause : FaultCause} {info : Word} (hs : s.status = .normal)
    (h : tick r s = .next t) (he : t.status = .error cause info) :
    s.pc.toNat < 4096 ∧ TickFaults s cause info ∧ t = (s.beginTick r).faulted cause info := by
  rcases tick_next h with ⟨hn, -⟩ | ⟨-, -, rfl⟩ | ⟨cause', info', -, hpc, hf, rfl⟩ | ⟨w, i, -, -, -, -, rfl⟩
  · exact absurd hs hn
  · cases he
  · cases he
    exact ⟨hpc, hf, rfl⟩
  · rw [completed_status, State.beginTick_status, hs] at he
    cases he

/-- The fault of a tick happens. -/
theorem tick_of_faults {s : State} {cause : FaultCause} {info : Word} (hs : s.status = .normal) (hpc : s.pc.toNat < 4096)
    (hf : TickFaults s cause info) (r : Option Byte) : tick r s = .next ((s.beginTick r).faulted cause info) := by
  rw [tick_running hs hpc]
  cases hf with
  | fetchFails hf => simp only [fetchAndExecute, fetch_beginTick, hf]; rfl
  | unrecognized hf hd => simp only [fetchAndExecute, fetch_beginTick, hf, hd]; rfl
  | raised hf hd hr =>
    simp only [fetchAndExecute, fetch_beginTick, hf, hd]
    exact exec_of_raises (raises_beginTick_iff.2 hr)

/-! ### The protocol -/

theorem append_eq_wordOfBytes (hi lo : Byte) : (hi ++ lo : BitVec 16) = wordOfBytes hi lo := by
  have := lo.isLt
  apply BitVec.eq_of_toNat_eq
  rw [BitVec.toNat_append, wordOfBytes_toNat, ← Nat.shiftLeft_add_eq_or_of_lt this, Nat.shiftLeft_eq]

theorem answer_tick {r : Option Byte} {s t : State} (h : tick r s = .next t) : answer (.tick r) s = .outcome t.status := by
  simp only [answer, h]

/-- Settles O13: a tick in a terminal `STATUS` does no more than begin. -/
theorem terminalStatusIsSticky : Obligations.TerminalStatusIsSticky := fun r _ hs =>
  ⟨tick_terminal hs r, fun b => (answer_tick (tick_terminal hs b)).trans rfl⟩

/-- A fetch from the last address of memory, the one below 4096 that has no whole word (R45). -/
theorem fetch_of_eq_4095 {s : State} (h : s.pc.toNat = 4095) : fetch s = .error 4096 := by
  simp only [fetch, memRead2, h]
  rfl

/-- Settles O11: the tests of the protocol one after the other; below 4095 the fetch reads its two bytes. -/
theorem tickFollowsProtocol : Obligations.TickFollowsProtocol := by
  refine fun r s => ⟨?_, fun t => answer_tick⟩
  dsimp only
  split_ifs with hs hpc hend
  · exact tick_terminal hs r
  · exact tick_finished (not_not.1 hs) hpc r
  · exact tick_of_faults (not_not.1 hs) (by omega) (.fetchFails (fetch_of_eq_4095 hend)) r
  · rw [append_eq_wordOfBytes]
    cases hd : decode (wordOfBytes (s.mem.read s.pc.toNat) (s.mem.read (s.pc.toNat + 1))) with
    | error e => exact tick_of_faults (not_not.1 hs) (by omega) (.unrecognized (fetch_of_le (by omega)) hd) r
    | ok i => exact tick_of_fetch (not_not.1 hs) (fetch_of_le (by omega)) hd r

/-! ### Faults -/

/-- Settles O14: a tick that ends in `Error` has begun and taken the fault entry, and no more. -/
theorem faultsArePrecise : Obligations.FaultsArePrecise := fun _ _ _ _ _ hs h he => (tick_error hs h he).2.2

theorem fetch_error_toNat {s : State} {a : Word} (h : fetch s = .error a) : 4096 ≤ a.toNat := by
  have := s.pc.isLt
  obtain ⟨-, rfl⟩ := memRead2_error h
  rw [firstOutOfRange_toNat this]
  exact Nat.le_max_right _ _

/-- The info of an instruction's fault is its own word (D14), or an out-of-range address. -/
theorem Raises.info {s : State} {i : Instr} {cause : FaultCause} {info : Word} (h : Raises s i cause info) :
    (cause ≠ .memOutOfRange → info = encode i) ∧ (cause = .memOutOfRange → 4096 ≤ info.toNat) := by
  have hi : 4096 ≤ (firstOutOfRange s.i.toNat).toNat := by
    rw [firstOutOfRange_toNat s.i.isLt]
    exact Nat.le_max_right _ _
  cases h
  case sys => exact ⟨fun _ => rfl, nofun⟩
  case ret => exact ⟨fun _ => rfl, nofun⟩
  case call => exact ⟨fun _ => rfl, nofun⟩
  case drwLength => exact ⟨fun _ => rfl, nofun⟩
  all_goals exact ⟨fun h => absurd rfl h, fun _ => hi⟩

theorem TickFaults.info {s : State} {cause : FaultCause} {info : Word} (h : TickFaults s cause info) :
    (cause ≠ .memOutOfRange → fetch s = .ok info) ∧ (cause = .memOutOfRange → 4096 ≤ info.toNat) := by
  cases h with
  | fetchFails hf => exact ⟨fun h => absurd rfl h, fun _ => fetch_error_toNat hf⟩
  | unrecognized hf hd => exact ⟨fun _ => hf, nofun⟩
  | raised hf hd hr =>
    refine ⟨fun hc => ?_, hr.info.2⟩
    rw [hr.info.1 hc, (encodeOfDecodeIsWord _ _ hd).1, hf]

/-- Settles O15: where the info is the encoding of an instruction, that is the word it was decoded from. -/
theorem faultInfoIsWordOrAddress : Obligations.FaultInfoIsWordOrAddress := by
  intro r s t cause info hs h he
  obtain ⟨-, hf, -⟩ := tick_error hs h he
  exact hf.info

/-- A fault of a tick is a matter of memory, `pc`, the parameters, the stack and `I`. -/
theorem TickFaults.congr {s u : State} {cause : FaultCause} {info : Word} (h : TickFaults s cause info)
    (hmem : u.mem = s.mem) (hpc : u.pc = s.pc) (hcfg : u.cfg = s.cfg) (hstack : u.stack = s.stack) (hi : u.i = s.i) :
    TickFaults u cause info := by
  have hfetch : fetch u = fetch s := by simp only [fetch, hmem, hpc]
  cases h with
  | fetchFails hf => exact .fetchFails (hfetch.trans hf)
  | unrecognized hf hd => exact .unrecognized (hfetch.trans hf) hd
  | raised hf hd hr => exact .raised (hfetch.trans hf) hd ((raises_iff_of_eq hcfg hstack hi _ _ _).2 hr)

/-- Settles O17: the state a fault leaves agrees with the one it was met in on all that the fault depends on. -/
theorem reexecutionReportsTheSameFault : Obligations.ReexecutionReportsTheSameFault := by
  intro r r' s t cause info k d1 d2 hs h he
  obtain ⟨hpc, hf, rfl⟩ := tick_error hs h he
  let u : State := { (s.beginTick r).faulted cause info with status := .normal, key := k, dt := d1, st := d2 }
  have hf' : TickFaults u cause info := hf.congr rfl rfl rfl rfl rfl
  exact ⟨_, tick_of_faults (s := u) rfl hpc hf' r', rfl⟩

/-! ### The display-changed flag -/

theorem completed_dch_iff {s : State} (h : s.dch = false) (i : Instr) :
    (completed i s).dch = true ↔ i = .cls ∨ ∃ x y n, i = .drw x y n := by
  cases i
  case ldVxK x => cases hk : s.key <;> simp [completed, hk, h]
  all_goals simp [completed, h]

/-- Settles O18: a tick begins with the flag cleared, and of what it can do then only a completed CLS or DRW sets it. -/
theorem displayChangedMarksClsAndDrw : Obligations.DisplayChangedMarksClsAndDrw := by
  intro r s t h
  rcases tick_next h with ⟨hn, rfl⟩ | ⟨-, -, rfl⟩ | ⟨cause, info, -, -, -, rfl⟩ | ⟨w, i, hs, hf, hd, -, rfl⟩
  case inl => exact ⟨nofun, fun ⟨hs, _⟩ => absurd hs hn⟩
  case inr.inl => exact ⟨nofun, nofun⟩
  case inr.inr.inl => exact ⟨nofun, nofun⟩
  case inr.inr.inr =>
    rw [completed_dch_iff rfl]
    constructor
    · exact fun hi => ⟨hs, by rw [completed_status]; exact hs, w, i, hf, hd, hi⟩
    · rintro ⟨-, -, w', i', hf', hd', hi⟩
      cases hf.symm.trans hf'
      cases hd.symm.trans hd'
      exact hi

/-! ### The random byte -/

theorem exec_setRnd {i : Instr} {s t : State} (hi : ∀ x nn, i ≠ .rnd x nn) (h : exec i s = .next t) (r : Option Byte) :
    exec i { s with rnd := r } = .next { t with rnd := r } := by
  have hexec := exec_setStRnd (.inl hi) h (r := r) s.st
  have hst : (if ∃ x, i = .ldStVx x then t.st else s.st) = t.st := by
    split
    · rfl
    · next hn =>
      obtain ⟨-, hst, -⟩ := instructionsLeaveHostStateAlone i s t h
      exact (hst.resolve_right fun ⟨x, hx, _⟩ => hn ⟨x, hx⟩).symm
  rwa [hst] at hexec

/-- Settles O19: up to the execute phase the input is only recorded, and there RND alone reads it. -/
theorem randomByteReachesOnlyRnd : Obligations.RandomByteReachesOnlyRnd := by
  intro r r' s t hno h
  rcases tick_next h with ⟨hn, rfl⟩ | ⟨hs, hpc, rfl⟩ | ⟨cause, info, hs, hpc, hf, rfl⟩ | ⟨w, i, hs, hf, hd, -, -⟩
  case inl => exact tick_terminal hn r'
  case inr.inl => exact tick_finished hs hpc r'
  case inr.inr.inl => exact tick_of_faults hs hpc hf r'
  case inr.inr.inr =>
    rw [tick_of_fetch hs hf hd] at h ⊢
    exact exec_setRnd (fun x nn hi => hno w x nn hf (hi ▸ hd)) h r'

end Sys2Proof.Machine
end

section
/-! The invariant (10_state.md R13, R16, R22; 60_exceptions.md R153, R157): it holds at reset, and every command keeps it, so every
step does. -/

namespace Sys2Proof.Machine

/-! ### What the invariant depends on -/

/-- The invariant is a matter of memory, `pc`, the stack, the image, the parameters and `STATUS`. -/
theorem State.Inv.congr {s u : State} (h : s.Inv) (hmem : u.mem = s.mem) (hpc : u.pc = s.pc) (hstack : u.stack = s.stack)
    (himage : u.image = s.image) (hcfg : u.cfg = s.cfg) (hstatus : u.status = s.status) : u.Inv := by
  have hfetch : fetch u = fetch s := by simp only [fetch, hmem, hpc]
  constructor
  case memory => rw [hmem]; exact h.memory
  case pcBound => rw [hpc]; exact h.pcBound
  case stackDepth => rw [State.sp, hstack]; exact h.stackDepth
  case returnAddresses => rw [hstack, maxReturnAddress, hcfg]; exact h.returnAddresses
  case imageLength => rw [himage]; exact h.imageLength
  case finished => rw [hstatus, hpc]; exact h.finished
  case memoryInfo => rw [hstatus]; exact h.memoryInfo
  case wordInfo => rw [hstatus, hfetch]; exact h.wordInfo

/-! ### A fault keeps it -/

theorem State.Inv.faulted {s : State} {cause : FaultCause} {info : Word} (h : s.Inv) (hf : TickFaults s cause info) :
    (s.faulted cause info).Inv where
  memory := h.memory
  pcBound := h.pcBound
  stackDepth := h.stackDepth
  returnAddresses := h.returnAddresses
  imageLength := h.imageLength
  finished := nofun
  memoryInfo := by rintro _ ⟨⟩; exact hf.info.2 rfl
  wordInfo := by rintro _ _ ⟨⟩; exact hf.info.1

/-! ### A completed instruction keeps it -/

/-- `LD B` and `LD [I], VX` complete only with their whole run inside memory, so memory stays canonical. -/
theorem completed_mem_wf {i : Instr} {s : State} (hmem : s.mem.wf = true) (hn : ∀ cause info, ¬ Raises s i cause info) :
    (completed i s).mem.wf = true := by
  rcases completed_mem i s with h | ⟨x, rfl⟩ | ⟨x, rfl⟩
  case inl => rw [h]; exact hmem
  case inr.inl =>
    have hi : s.i.toNat + 2 < 4096 := Nat.lt_of_not_le fun hi => hn _ _ (.ldB x hi)
    exact Memory.wf_writeBytes hmem _ (by rw [bcdDigits_length, dataAddress]; omega)
  case inr.inr =>
    have hi : s.i.toNat + x.val < 4096 := Nat.lt_of_not_le fun hi => hn _ _ (.ldMemVx x hi)
    exact Memory.wf_writeBytes hmem _ (by rw [regList_length, dataAddress]; omega)

theorem headD_toNat_le {stack : List Word} {n : Nat} (h : ∀ a ∈ stack, a.toNat ≤ n) : (stack.headD 0).toNat ≤ n := by
  cases stack with
  | nil => exact Nat.zero_le n
  | cons a rest => exact h a List.mem_cons_self

/-- R13: from an address a word was fetched from, with the return addresses bounded, an instruction leaves `pc` at most 4350, the
greatest target of `JP V0`. -/
theorem pcAfter_le {s : State} (hpc : s.pc.toNat ≤ 4094) (hret : ∀ a ∈ s.stack, a.toNat ≤ maxReturnAddress s) (i : Instr) :
    (pcAfter i s).toNat ≤ 4350 := by
  have h2 : (s.pc + 2).toNat ≤ 4096 := by
    rw [BitVec.toNat_add, show (2 : Word).toNat = 2 from rfl]; omega
  have h4 : (s.pc + 4).toNat ≤ 4098 := by
    rw [BitVec.toNat_add, show (4 : Word).toNat = 4 from rfl]; omega
  have hnnn (nnn : Addr12) : (nnn.setWidth 16).toNat ≤ 4095 := by
    have := nnn.isLt; rw [BitVec.toNat_setWidth]; omega
  have hhead := headD_toNat_le hret
  cases i
  case jp nnn => exact (hnnn nnn).trans (by omega)
  case call nnn => exact (hnnn nnn).trans (by omega)
  case jpV0 nnn =>
    have := hnnn nnn
    have := (s.reg 0).isLt
    simp only [pcAfter]
    rw [BitVec.toNat_add, BitVec.toNat_setWidth 16 (s.reg 0)]
    omega
  case ret =>
    simp only [pcAfter, maxReturnAddress] at hhead ⊢
    split_ifs at hhead ⊢
    · rw [BitVec.toNat_add, show (2 : Word).toNat = 2 from rfl]; omega
    · omega
  all_goals
    simp only [pcAfter]
    (repeat' split) <;> omega

/-- What CALL pushes is a return address within its bound (R13), and RET only takes one away. -/
theorem completed_returnAddresses {s : State} (hpc : s.pc.toNat ≤ 4094)
    (hret : ∀ a ∈ s.stack, a.toNat ≤ maxReturnAddress s) (i : Instr) :
    ∀ a ∈ (completed i s).stack, a.toNat ≤ maxReturnAddress s := by
  rcases completed_stack i s with h | rfl | ⟨nnn, rfl⟩
  case inl => rw [h]; exact hret
  case inr.inl => exact fun a ha => hret a (List.mem_of_mem_tail ha)
  case inr.inr =>
    intro a ha
    rcases List.mem_cons.1 ha with rfl | ha
    · simp only [returnAddress, maxReturnAddress]
      split
      · exact hpc
      · rw [BitVec.toNat_add, show (2 : Word).toNat = 2 from rfl]; omega
    · exact hret a ha

/-- CALL completes only with a free slot (R83), so the stack holds at most 16 entries. -/
theorem completed_sp_le {i : Instr} {s : State} (hsp : s.sp ≤ 16) (hn : ∀ cause info, ¬ Raises s i cause info) :
    (completed i s).sp ≤ 16 := by
  rcases completed_stack i s with h | rfl | ⟨nnn, rfl⟩
  case inl => rw [State.sp, h]; exact hsp
  case inr.inl =>
    have : (completed .ret s).sp = s.sp - 1 := List.length_tail
    omega
  case inr.inr => exact Nat.lt_of_not_le fun hfull => hn _ _ (.call nnn hfull)

theorem State.Inv.completed {i : Instr} {s : State} (h : s.Inv) (hs : s.status = .normal) (hpc : s.pc.toNat ≤ 4094)
    (hn : ∀ cause info, ¬ Raises s i cause info) : (completed i s).Inv := by
  obtain ⟨hstatus, -, himage, hcfg, -⟩ := completed_keeps i s
  rw [hs] at hstatus
  constructor
  case memory => exact completed_mem_wf h.memory hn
  case pcBound => rw [completed_pc]; exact pcAfter_le hpc h.returnAddresses i
  case stackDepth => exact completed_sp_le h.stackDepth hn
  case returnAddresses => rw [maxReturnAddress, hcfg]; exact completed_returnAddresses hpc h.returnAddresses i
  case imageLength => rw [himage]; exact h.imageLength
  all_goals
    rw [hstatus]
    nofun

/-! ### A tick and the other commands keep it -/

theorem State.Inv.tick {r : Option Byte} {s t : State} (h : s.Inv) (ht : tick r s = .next t) : t.Inv := by
  have hbegin : (s.beginTick r).Inv := h.congr rfl rfl rfl rfl rfl rfl
  rcases tick_next ht with ⟨-, rfl⟩ | ⟨-, hpc, rfl⟩ | ⟨cause, info, -, -, hf, rfl⟩ | ⟨w, i, hs, hf, -, hn, rfl⟩
  case inl => exact hbegin
  case inr.inl => exact { h with finished := fun _ => hpc, memoryInfo := nofun, wordInfo := nofun }
  case inr.inr.inl => exact hbegin.faulted (hf.congr rfl rfl rfl rfl rfl)
  case inr.inr.inr =>
    have hpc : s.pc.toNat + 1 < 4096 := (memRead2_ok hf).1
    exact hbegin.completed hs (by rw [State.beginTick_pc]; omega) fun cause info hr =>
      hn cause info (raises_beginTick_iff.1 hr)

theorem inv_resetMachine {s : State} (h : s.image.length ≤ 3584) : (resetMachine s).Inv where
  memory := wf_resetMemory h
  pcBound := show (0x200 : Word).toNat ≤ 4350 by decide
  stackDepth := Nat.zero_le _
  returnAddresses := nofun
  imageLength := h
  finished := nofun
  memoryInfo := nofun
  wordInfo := nofun

theorem State.Inv.perform {c : Command} {s t : State} (h : s.Inv) (ht : perform c s = .next t) : t.Inv := by
  cases c
  case tick r => exact h.tick ht
  all_goals cases ht
  case timerStep => exact h.congr rfl rfl rfl rfl rfl rfl
  case setKey => exact h.congr rfl rfl rfl rfl rfl rfl
  case fbRead => exact h
  case dchRead => exact h
  case load bytes => exact inv_resetMachine (List.length_take_le _ _)
  case reset => exact inv_resetMachine h.imageLength

/-! ### The statements -/

/-- Settles O20: memory, stack and image are empty, `pc` is 0x200 and `STATUS` is `Normal`. -/
theorem invariantHoldsAtReset : Obligations.InvariantHoldsAtReset where
  memory := wf_reset_mem
  pcBound := by decide
  stackDepth := Nat.zero_le _
  returnAddresses := nofun
  imageLength := Nat.zero_le _
  finished := nofun
  memoryInfo := nofun
  wordInfo := nofun

/-- Settles O21: a step is a tick after the free host's commands, or a queued command, and what it does to the queue, the timers and
the key first is nothing to the invariant. -/
theorem everyStepKeepsInvariant : Obligations.EveryStepKeepsInvariant := by
  intro s t h ht
  cases hp : s.pending with
  | nil =>
    rw [step_of_nil hp] at ht
    have hfree : s.freeHost.Inv := h.congr rfl rfl rfl rfl rfl rfl
    exact hfree.tick ht
  | cons c cs =>
    rw [step_of_cons hp] at ht
    have hqueue : ({ s with pending := cs } : State).Inv := h.congr rfl rfl rfl rfl rfl rfl
    exact hqueue.perform ht

end Sys2Proof.Machine
end

section
/-! The control transfer statements (40_flow.md): SYS, RET, CALL and JP V0. -/

namespace Sys2Proof.Machine

/-! ### What `exec` runs for each instruction -/

theorem exec_sys_of_nop {s : State} (h : s.cfg.sysPolicy = .nop) (nnn : Addr12) : exec (.sys nnn) s = .next s.advance := by
  simp only [exec, execSys, h]

theorem exec_ret_of_cons {s : State} {a : Word} {rest : List Word} (h : s.stack = a :: rest) :
    exec .ret s = .next ((s.setStack rest).setPc (if s.cfg.callPushPre then a + 2 else a)) := by
  simp only [exec, execRet, h, pop]

theorem exec_call_of_lt {s : State} (h : s.sp < 16) (nnn : Addr12) :
    exec (.call nnn) s = .next ((s.setStack (returnAddress s :: s.stack)).setPc (zext16 nnn)) := by
  simp only [exec, execCall, push_of_lt h]

theorem exec_jpV0 (nnn : Addr12) (s : State) :
    exec (.jpV0 nnn) s = .next (s.setPc (zext16 nnn + zext16Byte (s.reg 0))) := rfl

/-! ### The words of the faults -/

theorem encode_sys (nnn : Addr12) : encode (.sys nnn) = nnn.setWidth 16 :=
  BitVec.eq_of_toNat_eq (by
    rw [encode, wordNNN_toNat (by omega), BitVec.toNat_setWidth_of_le (by omega), Nat.zero_mul, Nat.zero_add])

theorem encode_call (nnn : Addr12) : encode (.call nnn) = 0x2000 ||| nnn.setWidth 16 :=
  BitVec.eq_of_toNat_eq (by
    rw [encode, wordNNN_toNat (by omega), BitVec.toNat_or, BitVec.toNat_setWidth_of_le (by omega)]
    exact Nat.two_pow_add_eq_or_of_lt nnn.isLt 2)

/-! ### The slots of the stack -/

/-- A pushed entry is entry number `SP` (R83). -/
theorem stackSlot_push_sp (s : State) (a : Word) : (s.setStack (a :: s.stack)).stackSlot s.sp = some a := by
  simp [State.stackSlot, State.sp]

theorem stackSlot_push_of_lt {s : State} {k : Nat} (h : k < s.sp) (a : Word) :
    (s.setStack (a :: s.stack)).stackSlot k = s.stackSlot k := by
  have hk : k < s.stack.reverse.length := by rw [List.length_reverse]; exact h
  simp only [State.stackSlot, State.setStack_stack, List.reverse_cons, List.getElem?_append_left hk]

/-! ### The statements -/

/-- Settles O28: the info is the encoding of SYS, which is its address field. -/
theorem sysFaultsOrOnlyAdvances : Obligations.SysFaultsOrOnlyAdvances := by
  intro nnn s
  constructor
  · intro h
    rw [exec_of_raises (.sys nnn h), encode_sys]
  · exact fun h => exec_sys_of_nop h nnn

/-- Settles O29: the two arms of `pop`. -/
theorem retPopsIntoPc : Obligations.RetPopsIntoPc := fun _ =>
  ⟨fun _ _ h => exec_ret_of_cons h, fun h => exec_of_raises (.ret (List.eq_nil_of_length_eq_zero h))⟩

/-- Settles O31: the pushed entry is slot number `SP`, and the info of an overflow is the encoding of CALL. -/
theorem callPushesAndJumps : Obligations.CallPushesAndJumps := by
  intro nnn s
  constructor
  · intro h
    exact ⟨_, exec_call_of_lt h nnn, zext16_eq nnn, rfl, stackSlot_push_sp s _,
      fun k hk => stackSlot_push_of_lt hk _, rfl⟩
  · intro h
    rw [exec_of_raises (.call nnn h), encode_call]

/-- Settles O32: RET adds 2 exactly when CALL pushed its own address. -/
theorem returnContinuesAfterCall : Obligations.ReturnContinuesAfterCall := by
  intro nnn s t u hsp hcall hstack hcfg
  rw [exec_call_of_lt hsp] at hcall
  cases hcall
  have hpc : (if u.cfg.callPushPre then returnAddress s + 2 else returnAddress s) = s.pc + 2 := by
    rw [hcfg, returnAddress]
    split <;> rfl
  rw [exec_ret_of_cons hstack, hpc]
  rfl

/-- Settles O33: 0xFFF + 0xFF is below 65536, so the 16-bit sum is the sum over the integers. -/
theorem jumpWithOffsetAddsV0 : Obligations.JumpWithOffsetAddsV0 := by
  intro nnn s
  refine ⟨_, exec_jpV0 nnn s, ?_, rfl⟩
  have := nnn.isLt
  have := (s.reg 0).isLt
  rw [State.setPc_pc, zext16_eq, zext16Byte_eq, BitVec.toNat_add, BitVec.toNat_setWidth_of_le (by omega),
    BitVec.toNat_setWidth_of_le (by omega)]
  omega

end Sys2Proof.Machine
end

section
/-! The register load, logic and random statements (41_alu.md): LD, ADD VX, NN, OR, AND, XOR and RND. -/

namespace Sys2Proof.Machine

/-! ### What `exec` runs for each instruction -/

theorem exec_ldImm (x : Reg) (nn : Byte) (s : State) : exec (.ldImm x nn) s = .next (s.setReg x nn).advance := rfl

theorem exec_ldReg (x y : Reg) (s : State) : exec (.ldReg x y) s = .next (s.setReg x (s.reg y)).advance := rfl

theorem exec_addImm (x : Reg) (nn : Byte) (s : State) : exec (.addImm x nn) s = .next (s.setReg x (s.reg x + nn)).advance := rfl

theorem exec_rnd (x : Reg) (nn : Byte) (s : State) : exec (.rnd x nn) s = .next (s.setReg x (s.rndByte &&& nn)).advance := rfl

theorem exec_orReg (x y : Reg) (s : State) :
    exec (.orReg x y) s = .next (writeLogic x (s.reg x ||| s.reg y) s).advance := rfl

theorem exec_andReg (x y : Reg) (s : State) :
    exec (.andReg x y) s = .next (writeLogic x (s.reg x &&& s.reg y) s).advance := rfl

theorem exec_xorReg (x y : Reg) (s : State) :
    exec (.xorReg x y) s = .next (writeLogic x (s.reg x ^^^ s.reg y) s).advance := rfl

/-! ### Instructions that write one register, and the logic instructions -/

/-- The instruction writes `x[X]` and advances, and that is all. -/
theorem exec_setReg_advance {i : Instr} {s : State} {x : Reg} {v : Byte} (hexec : exec i s = .next (s.setReg x v).advance) :
    ∃ t, exec i s = .next t ∧ (∀ r, t.reg r = if r = x then v else s.reg r) ∧ t.pc = s.pc + 2 ∧
      t = { s with regs := t.regs, pc := t.pc } ∧ s.MemorySame t :=
  exec_advance_of_regs hexec rfl fun r => State.setReg_reg s x r v

theorem writeLogic_eq (s : State) (x : Reg) (v : Byte) :
    writeLogic x v s = { s with regs := (writeLogic x v s).regs } := by
  unfold writeLogic
  split <;> rfl

/-- A logic instruction whose result has the bits `bit`. -/
theorem exec_writeLogic {i : Instr} {s : State} {x : Reg} {v : Byte} {bit : Nat → Bool}
    (hexec : exec i s = .next (writeLogic x v s).advance) (hbit : ∀ k, v.getLsbD k = bit k) :
    ∃ t, exec i s = .next t ∧ (∀ r, s.cfg.logicResetsVF = true ∧ r = VF → t.reg r = 0) ∧
      (∀ r, ¬ (s.cfg.logicResetsVF = true ∧ r = VF) → ∀ k, k < 8 →
        (t.reg r).getLsbD k = if r = x then bit k else (s.reg r).getLsbD k) ∧
      t.pc = s.pc + 2 ∧ t = { s with regs := t.regs, pc := t.pc } ∧ s.MemorySame t := by
  obtain ⟨t, ht, hreg, hpc, hframe, hmem⟩ := exec_advance_of_regs hexec (writeLogic_eq s x v) (writeLogic_reg s x v)
  refine ⟨t, ht, fun r hr => ?_, fun r hr k _ => ?_, hpc, hframe, hmem⟩
  · rw [hreg, if_pos hr]
  · rw [hreg, if_neg hr]
    split
    · exact hbit k
    · rfl

/-! ### The statements -/

/-- Settles O35: both loads are the write of one register. -/
theorem loadsWriteOneRegister : Obligations.LoadsWriteOneRegister := fun x y nn s =>
  ⟨exec_setReg_advance (exec_ldImm x nn s), exec_setReg_advance (exec_ldReg x y s)⟩

/-- Settles O36: the 8-bit sum is the sum modulo 256. -/
theorem addImmediateWritesNoFlag : Obligations.AddImmediateWritesNoFlag := by
  intro x nn s
  rw [← add_eq_ofNat]
  exact exec_setReg_advance (exec_addImm x nn s)

/-- Settles O37: the three results bit by bit. -/
theorem logicIsBitwise : Obligations.LogicIsBitwise := by
  rintro i f x y s (⟨rfl, rfl⟩ | ⟨rfl, rfl⟩ | ⟨rfl, rfl⟩)
  · exact exec_writeLogic (exec_orReg x y s) fun k => BitVec.getLsbD_or
  · exact exec_writeLogic (exec_andReg x y s) fun k => BitVec.getLsbD_and
  · exact exec_writeLogic (exec_xorReg x y s) fun k => BitVec.getLsbD_xor

/-- Settles O41: the random byte of the statement is `rndByte`. -/
theorem rndMasksTheRandomByte : Obligations.RndMasksTheRandomByte := fun x nn s =>
  exec_setReg_advance (exec_rnd x nn s)

end Sys2Proof.Machine
end

section
/-! The memory statements (20_memory.md): the two-byte read, the segment read, runs of writes, and the canonical form. -/

namespace Sys2Proof.Machine

/-! ### A canonical memory is determined by what it reads -/

theorem Memory.read_cons_self (k : Nat) (b : Byte) (rest : Memory) : Memory.read ((k, b) :: rest) k = b := if_pos rfl

theorem Memory.read_cons_of_ne {k a : Nat} (h : a ≠ k) (b : Byte) (rest : Memory) :
    Memory.read ((k, b) :: rest) a = rest.read a := if_neg h

/-- Where two canonical memories read the same, neither's first cell comes before the other's: it reads as unlisted there. -/
theorem Memory.first_le_of_read_eq {lo k : Nat} {b : Byte} {rest m : Memory} (h : Memory.wfFrom lo ((k, b) :: rest) = true)
    (hm : Memory.wfFrom lo m = true) (hread : Memory.read ((k, b) :: rest) k = m.read k) :
    ∃ k' b' rest', m = (k', b') :: rest' ∧ k' ≤ k := by
  obtain ⟨-, -, hb, -⟩ := Memory.wfFrom_cons.1 h
  rw [Memory.read_cons_self] at hread
  cases m with
  | nil => exact absurd hread hb
  | cons c rest' =>
    obtain ⟨k', b'⟩ := c
    refine ⟨k', b', rest', rfl, Nat.le_of_not_lt fun hk => hb (hread.trans ?_)⟩
    exact Memory.read_below (lo := k') (Memory.wfFrom_cons.2 ⟨le_rfl, (Memory.wfFrom_cons.1 hm).2⟩) hk

theorem Memory.eq_of_read_eq {lo : Nat} {m m' : Memory} (h : Memory.wfFrom lo m = true) (h' : Memory.wfFrom lo m' = true)
    (hread : ∀ a, m.read a = m'.read a) : m = m' := by
  induction m generalizing lo m' with
  | nil =>
    cases m' with
    | nil => rfl
    | cons c rest' =>
      obtain ⟨_, _, _, hnil, _⟩ := Memory.first_le_of_read_eq h' h (hread c.1).symm
      cases hnil
  | cons c rest ih =>
    obtain ⟨k, b⟩ := c
    obtain ⟨k', b', rest', rfl, hle⟩ := Memory.first_le_of_read_eq h h' (hread k)
    obtain ⟨_, _, _, heq, hle'⟩ := Memory.first_le_of_read_eq h' h (hread k').symm
    cases heq
    obtain rfl := Nat.le_antisymm hle hle'
    obtain ⟨-, -, -, hrest⟩ := Memory.wfFrom_cons.1 h
    obtain ⟨-, -, -, hrest'⟩ := Memory.wfFrom_cons.1 h'
    have hb : b = b' := by simpa only [Memory.read_cons_self] using hread k'
    have htail : ∀ a, Memory.read rest a = Memory.read rest' a := by
      intro a
      by_cases ha : a = k'
      · rw [ha, Memory.read_below hrest (Nat.lt_succ_self k'), Memory.read_below hrest' (Nat.lt_succ_self k')]
      · simpa only [Memory.read_cons_of_ne ha] using hread a
    rw [hb, ih hrest hrest' htail]

/-! ### The statements -/

/-- Settles O6: the first out-of-range address is `a` itself from 4096 on, and 4096 for a read at 4095. -/
theorem wordReadIsBigEndian : Obligations.WordReadIsBigEndian := by
  intro m a
  have hfail (h : 4096 ≤ a.toNat + 1) : memRead2 m a.toNat = .error (firstOutOfRange a.toNat) := if_pos h
  split_ifs with hout hend
  · have : firstOutOfRange a.toNat = a :=
      BitVec.eq_of_toNat_eq (by rw [firstOutOfRange_toNat a.isLt, Nat.max_eq_left hout])
    rw [hfail (by omega), this]
  · rw [hfail (by omega), hend]
    rfl
  · rw [append_eq_wordOfBytes]
    exact if_neg (by simp only [Config.memSize]; omega)

/-- Settles O7: inside memory the bytes are those of `readBytes`. -/
theorem segmentReadIsAtomic : Obligations.SegmentReadIsAtomic := by
  intro m a len _
  refine ⟨memReadSeg_of_le, fun h => ⟨_, memReadSeg_of_lt h, Memory.readBytes_length m _ _, fun k hk => ?_⟩⟩
  rw [Memory.readBytes_getElem?, if_pos hk]

/-- Settles O8: inside memory the run is `writeBytes`, whose laws are the statement. -/
theorem writesStoreExactlyTheirBytes : Obligations.WritesStoreExactlyTheirBytes := by
  intro m a bytes hm hne
  have hpos := List.length_pos_of_ne_nil hne
  refine ⟨memWriteSeg_of_le, fun h => ?_, memWrite1_eq_seg m _⟩
  have hrun : a.toNat + bytes.length ≤ 4096 := by omega
  exact ⟨_, memWriteSeg_of_lt h, Memory.wf_writeBytes hm bytes hrun, Memory.read_writeBytes hm bytes hrun⟩

/-- Settles O9: by induction along the two lists of cells, whose first cells stand at one address. -/
theorem canonicalMemoriesAreUnique : Obligations.CanonicalMemoriesAreUnique := fun _ _ => Memory.eq_of_read_eq

end Sys2Proof.Machine
end

section
/-! The address-register and memory instructions (42_index_memory.md): ADD I, LD F, LD B and the two bulk transfers. -/

namespace Sys2Proof.Machine

/-! ### What `exec` runs for each instruction -/

theorem exec_addI (x : Reg) (s : State) : exec (.addI x) s = .next (s.setI (s.i + zext16Byte (s.reg x))).advance := rfl

theorem exec_ldF (x : Reg) (s : State) : exec (.ldF x) s = .next (s.setI (glyphAddress (s.reg x) s)).advance := rfl

theorem exec_ldB_of_lt {s : State} (x : Reg) (h : s.i.toNat + 2 < 4096) : exec (.ldB x) s =
    .next (s.setMem (s.mem.writeBytes (dataAddress s) (bcdDigits (s.reg x)))).advance :=
  exec_of_not_raises (by rintro _ _ ⟨⟩; omega)

theorem exec_ldMemVx_of_lt {s : State} {x : Reg} (h : s.i.toNat + x.val < 4096) : exec (.ldMemVx x) s =
    .next ((s.setMem (s.mem.writeBytes (dataAddress s) (regList x s))).setI (bulkNextI x s)).advance :=
  exec_of_not_raises (by rintro _ _ ⟨⟩; omega)

theorem exec_ldVxMem_of_lt {s : State} {x : Reg} (h : s.i.toNat + x.val < 4096) : exec (.ldVxMem x) s =
    .next ((s.setRegsFrom0 (s.mem.readBytes (dataAddress s) (x.val + 1))).setI (bulkNextI x s)).advance :=
  exec_of_not_raises (by rintro _ _ ⟨⟩; omega)

/-! ### The operands as numbers -/

theorem zext16Byte_toNat (b : Byte) : (zext16Byte b).toNat = b.toNat := by
  rw [zext16Byte_eq, BitVec.toNat_setWidth_of_le (by omega)]

theorem glyphAddress_toNat (v : Byte) (s : State) :
    (glyphAddress v s).toNat = 5 * (if s.cfg.fontMaskLowNibble then v.toNat % 16 else v.toNat) := by
  have := v.isLt
  rw [glyphAddress, BitVec.toNat_ofNat]
  split <;> omega

theorem bulkNextI_toNat (x : Reg) (s : State) : (bulkNextI x s).toNat =
    if s.cfg.loadStoreIncI then (s.i.toNat + x.val + 1) % 65536 else s.i.toNat := by
  have := x.isLt
  unfold bulkNextI
  split
  · rw [BitVec.toNat_add, BitVec.toNat_ofNat]; omega
  · rfl

/-! ### Bytes stored and loaded -/

/-- The `k`th byte of a run of writes reads as written. -/
theorem read_writeBytes_add {m : Memory} (h : m.wf = true) {bytes : List Byte} {a k : Nat} (ha : a + bytes.length ≤ 4096)
    (hk : k < bytes.length) : (m.writeBytes a bytes).read (a + k) = bytes.getD k 0 := by
  rw [Memory.read_writeBytes h bytes ha, if_pos (by omega), Nat.add_sub_cancel_left]

theorem read_writeBytes_outside {m : Memory} (h : m.wf = true) {bytes : List Byte} {a c : Nat} (ha : a + bytes.length ≤ 4096)
    (hc : ¬ (a ≤ c ∧ c < a + bytes.length)) : (m.writeBytes a bytes).read c = m.read c := by
  rw [Memory.read_writeBytes h bytes ha, if_neg hc]

/-- A bulk load of `X + 1` bytes writes `x[0]` to `x[X]`. -/
theorem setRegsFrom0_readBytes_reg (s : State) (m : Memory) (a : Nat) (x r : Reg) :
    (s.setRegsFrom0 (m.readBytes a (x.val + 1))).reg r = if r ≤ x then m.read (a + r.val) else s.reg r := by
  rw [setRegsFrom0_reg, Memory.readBytes_length]
  by_cases h : r ≤ x
  · have hr : r.val < x.val + 1 := Nat.lt_succ_of_le h
    rw [if_pos h, if_pos hr, List.getD_eq_getElem?_getD, Memory.readBytes_getElem?, if_pos hr]
    rfl
  · rw [if_neg h, if_neg fun hr => h (Nat.le_of_lt_succ hr)]

/-! ### The statements -/

/-- Settles O43: the 16-bit sum is the sum modulo 65536, and five times a byte is below 65536. -/
theorem addIAndGlyphAddress : Obligations.AddIAndGlyphAddress := by
  intro x s
  constructor
  · refine ⟨_, exec_addI x s, ?_, rfl, rfl, fun _ => rfl⟩
    rw [State.advance_i, State.setI_i, BitVec.toNat_add, zext16Byte_toNat]
  · exact ⟨_, exec_ldF x s, glyphAddress_toNat (s.reg x) s, rfl, rfl, fun _ => rfl⟩

/-- Settles O44: the three digits are those of `bcdDigits`. -/
theorem bcdStoresThreeDigits : Obligations.BcdStoresThreeDigits := by
  intro x s hm
  refine ⟨fun h => ?_, fun h => exec_of_raises (.ldB x h)⟩
  have hlen : (bcdDigits (s.reg x)).length = 3 := bcdDigits_length (s.reg x)
  have hrun : dataAddress s + (bcdDigits (s.reg x)).length ≤ 4096 := by rw [hlen, dataAddress]; omega
  refine ⟨_, exec_ldB_of_lt x h, ⟨_, _, _, read_writeBytes_add (k := 0) hm hrun (by omega),
    read_writeBytes_add (k := 1) hm hrun (by omega), read_writeBytes_add (k := 2) hm hrun (by omega), ?_⟩,
    fun c hc => read_writeBytes_outside hm hrun hc, rfl, rfl⟩
  have := (s.reg x).isLt
  simp only [bcdDigits, List.getD_cons_zero, List.getD_cons_succ, BitVec.toNat_ofNat]
  omega

/-- Settles O45: the run is `regList`, of `X + 1` bytes. -/
theorem bulkStoreWritesRegisters : Obligations.BulkStoreWritesRegisters := by
  intro x s hm
  refine ⟨fun h => ?_, fun h => exec_of_raises (.ldMemVx x h)⟩
  have hlen := regList_length x s
  have hrun : dataAddress s + (regList x s).length ≤ 4096 := by rw [hlen, dataAddress]; omega
  refine ⟨_, exec_ldMemVx_of_lt h, fun r hr => ?_, fun c hc => ?_, bulkNextI_toNat x s, rfl, rfl⟩
  · exact (read_writeBytes_add hm hrun (by rw [hlen]; exact Nat.lt_succ_of_le hr)).trans (regList_getD x r s hr)
  · exact read_writeBytes_outside hm hrun (by rwa [hlen])

/-- Settles O46: the bytes loaded are those of `readBytes` at `I`. -/
theorem bulkLoadReadsRegisters : Obligations.BulkLoadReadsRegisters := by
  intro x s
  refine ⟨fun h => ?_, fun h => exec_of_raises (.ldVxMem x h)⟩
  exact ⟨_, exec_ldVxMem_of_lt h, setRegsFrom0_readBytes_reg s s.mem (dataAddress s) x, bulkNextI_toNat x s, rfl, rfl,
    fun _ => rfl⟩

/-- Settles O47: the load reads each byte where the store put it. -/
theorem bulkLoadUndoesBulkStore : Obligations.BulkLoadUndoesBulkStore := by
  intro x s t u hm h hstore hmem hi
  obtain ⟨t', hstore', hstored, -⟩ := (bulkStoreWritesRegisters x s hm).1 h
  cases hstore.symm.trans hstore'
  obtain ⟨v, hload, hreg, -⟩ := (bulkLoadReadsRegisters x u).1 (hi ▸ h)
  refine ⟨v, hload, fun r hr => ?_⟩
  rw [hreg, if_pos hr, hmem, hi, hstored r hr]

end Sys2Proof.Machine
end

section
/-! The display statements (43_display.md). A blit is read as a set of pixels turned over: each plotted bit turns over one pixel, bits
with different targets add up, and a row and a sprite are such sums. -/

namespace Sys2Proof.Machine

/-! ### Turning over a set of pixels -/

/-- `acc'` comes from `acc` by turning over the pixels of the grid in `target`, with a collision noted where one of them was on. -/
def TurnsOver (target : Nat → Nat → Bool) (acc acc' : Blit) : Prop :=
  (∀ cx cy, cx < 64 → cy < 32 → acc'.1.pixel cx cy = (acc.1.pixel cx cy ^^ target cx cy)) ∧
  (acc'.2 = true ↔ acc.2 = true ∨ ∃ cx cy, cx < 64 ∧ cy < 32 ∧ acc.1.pixel cx cy = true ∧ target cx cy = true)

theorem turnsOver_nothing (acc : Blit) : TurnsOver (fun _ _ => false) acc acc := by
  simp [TurnsOver]

theorem turnsOver_plot (acc : Blit) (x y : Nat) : TurnsOver (fun cx cy => decide (cx = x ∧ cy = y)) acc (plot acc x y) := by
  constructor
  · intro cx cy hx hy
    rw [plot_pixel]
    congr 1
    rw [decide_eq_decide]
    constructor
    · exact fun ⟨hcx, hcy, _⟩ => ⟨hcx, hcy⟩
    · exact fun ⟨hcx, hcy⟩ => ⟨hcx, hcy, hcx ▸ hx, hcy ▸ hy⟩
  · rw [plot_collision, Bool.or_eq_true]
    refine or_congr_right ⟨fun h => ?_, ?_⟩
    · have hin : x < 64 ∧ y < 32 := by
        by_contra hout
        rw [Framebuffer.pixel_outside _ hout] at h
        cases h
      exact ⟨x, y, hin.1, hin.2, h, by simp⟩
    · rintro ⟨cx, cy, -, -, h, ht⟩
      obtain ⟨rfl, rfl⟩ := of_decide_eq_true ht
      exact h

/-- Two sets without a common pixel turned over one after the other are their union turned over: the second meets its pixels as they
were. -/
theorem TurnsOver.trans {T U V : Nat → Nat → Bool} {acc acc' acc'' : Blit} (h : TurnsOver T acc acc') (h' : TurnsOver U acc' acc'')
    (hdisjoint : ∀ cx cy, T cx cy = true → U cx cy = false) (hunion : ∀ cx cy, V cx cy = (T cx cy || U cx cy)) :
    TurnsOver V acc acc'' := by
  obtain ⟨hpix, hcoll⟩ := h
  obtain ⟨hpix', hcoll'⟩ := h'
  constructor
  · intro cx cy hx hy
    rw [hpix' cx cy hx hy, hpix cx cy hx hy, hunion]
    cases ht : T cx cy
    · simp
    · simp [hdisjoint cx cy ht]
  · have hsame : ∀ cx cy, cx < 64 → cy < 32 → U cx cy = true → acc'.1.pixel cx cy = acc.1.pixel cx cy := by
      intro cx cy hx hy hu
      have ht : T cx cy = false := by
        by_contra ht
        rw [hdisjoint cx cy (by simpa using ht)] at hu
        cases hu
      rw [hpix cx cy hx hy, ht, Bool.xor_false]
    rw [hcoll', hcoll, or_assoc]
    refine or_congr_right ⟨?_, ?_⟩
    · rintro (⟨cx, cy, hx, hy, hon, ht⟩ | ⟨cx, cy, hx, hy, hon, hu⟩)
      · exact ⟨cx, cy, hx, hy, hon, by simp [hunion, ht]⟩
      · exact ⟨cx, cy, hx, hy, by rw [← hsame cx cy hx hy hu, hon], by simp [hunion, hu]⟩
    · rintro ⟨cx, cy, hx, hy, hon, hv⟩
      rw [hunion, Bool.or_eq_true] at hv
      rcases hv with ht | hu
      · exact .inl ⟨cx, cy, hx, hy, hon, ht⟩
      · exact .inr ⟨cx, cy, hx, hy, by rw [hsame cx cy hx hy hu, hon], hu⟩

/-! ### A row, and a sprite -/

/-- Whether `(cx, cy)` is the target of a set bit among the `n` leftmost of a row drawn at `(ox, oy)`. -/
def rowBit (row : Byte) (ox oy n cx cy : Nat) : Bool :=
  decide (ox ≤ cx ∧ cx < ox + n ∧ cy = oy) && row.getLsbD (7 - (cx - ox))

theorem rowBit_zero (row : Byte) (ox oy cx cy : Nat) : rowBit row ox oy 0 cx cy = false := by
  simp only [rowBit, Bool.and_eq_false_iff, decide_eq_false_iff_not]
  omega

theorem rowBit_succ (row : Byte) (ox oy n cx cy : Nat) : rowBit row ox oy (n + 1) cx cy =
    (rowBit row ox oy n cx cy || (decide (cx = ox + n ∧ cy = oy) && row.getLsbD (7 - n))) := by
  by_cases hcx : cx = ox + n
  · subst hcx
    simp [rowBit]
  · have hlt : cx < ox + (n + 1) ↔ cx < ox + n := by omega
    simp [rowBit, hcx, hlt]

theorem turnsOver_rowBits (acc : Blit) (row : Byte) (ox oy n : Nat) : TurnsOver (rowBit row ox oy n) acc
    ((List.range n).foldl (fun acc j => if row.getLsbD (7 - j) then plot acc (ox + j) oy else acc) acc) := by
  induction n with
  | zero =>
    have hnone : rowBit row ox oy 0 = fun _ _ => false := funext₂ (rowBit_zero row ox oy)
    rw [hnone]
    exact turnsOver_nothing acc
  | succ n ih =>
    rw [List.range_succ, List.foldl_append, List.foldl_cons, List.foldl_nil]
    split
    case isTrue hbit =>
      refine ih.trans (turnsOver_plot _ (ox + n) oy) (fun cx cy h => ?_) fun cx cy => ?_
      · simp only [rowBit, Bool.and_eq_true, decide_eq_true_eq] at h
        exact decide_eq_false (by omega)
      · rw [rowBit_succ, hbit, Bool.and_true]
    case isFalse hbit =>
      have hsame : rowBit row ox oy (n + 1) = rowBit row ox oy n := by
        funext cx cy
        rw [rowBit_succ, Bool.eq_false_iff.2 hbit, Bool.and_false, Bool.or_false]
      rw [hsame]
      exact ih

theorem turnsOver_blitRow (acc : Blit) (row : Byte) (ox oy : Nat) :
    TurnsOver (rowBit row ox oy 8) acc (blitRow acc row ox oy) := turnsOver_rowBits acc row ox oy 8

theorem spriteBit_nil (ox oy cx cy : Nat) : spriteBit [] ox oy cx cy = false := by
  simp [spriteBit]

theorem spriteBit_cons (row : Byte) (rows : List Byte) (ox oy cx cy : Nat) :
    spriteBit (row :: rows) ox oy cx cy = (rowBit row ox oy 8 cx cy || spriteBit rows ox (oy + 1) cx cy) := by
  rcases Nat.lt_trichotomy cy oy with h | h | h
  · have h1 : ¬ oy ≤ cy := by omega
    have h2 : ¬ oy + 1 ≤ cy := by omega
    have h3 : ¬ cy = oy := by omega
    simp [spriteBit, rowBit, h1, h2, h3]
  · subst h
    simp [spriteBit, rowBit]
  · have h1 : oy ≤ cy := by omega
    have h2 : oy + 1 ≤ cy := by omega
    have h3 : ¬ cy = oy := by omega
    have h4 : cy - oy = (cy - (oy + 1)) + 1 := by omega
    simp [spriteBit, rowBit, h1, h2, h3, h4]

theorem turnsOver_blitRows (rows : List Byte) (ox oy : Nat) (acc : Blit) :
    TurnsOver (spriteBit rows ox oy) acc (blitRows acc rows ox oy) := by
  induction rows generalizing acc oy with
  | nil =>
    have hnone : spriteBit [] ox oy = fun _ _ => false := funext₂ (spriteBit_nil ox oy)
    rw [hnone]
    exact turnsOver_nothing acc
  | cons row rows ih =>
    have hrest := ih (oy + 1) (blitRow acc row ox oy)
    refine (turnsOver_blitRow acc row ox oy).trans hrest (fun cx cy h => ?_) (spriteBit_cons row rows ox oy)
    have hrow : cy = oy := by
      simp only [rowBit, Bool.and_eq_true, decide_eq_true_eq] at h
      exact h.1.2.2
    simp [spriteBit, hrow]

theorem turnsOver_blit (fb : Framebuffer) (rows : List Byte) (ox oy : Nat) :
    TurnsOver (spriteBit rows ox oy) (fb, false) (blit fb rows ox oy) := turnsOver_blitRows rows ox oy (fb, false)

/-! ### What `exec` runs for CLS and DRW -/

theorem exec_cls (s : State) : exec .cls s = .next ((s.setFb Framebuffer.blank).setDch true).advance := rfl

theorem exec_drw_of_lt {s : State} {n : Fin 16} (x y : Reg) (hn : n ≠ 0) (h : s.i.toNat + n.val - 1 < 4096) :
    exec (.drw x y n) s = .next (completed (.drw x y n) s) :=
  exec_of_not_raises (by
    rintro _ _ ⟨⟩
    · exact hn rfl
    · omega)

theorem encode_drw_zero (x y : Reg) : encode (.drw x y 0) = BitVec.ofNat 16 (0xD000 + 256 * x.val + 16 * y.val) := by
  apply BitVec.eq_of_toNat_eq
  have := x.isLt
  have := y.isLt
  rw [encode, wordXYN_toNat (by omega), BitVec.toNat_ofNat, show (0 : Fin 16).val = 0 from rfl]
  omega

theorem readBytes_eq_bytesAt (m : Memory) (a len : Nat) : m.readBytes a len = bytesAt m a len := by
  apply List.ext_getElem?
  intro k
  rw [Memory.readBytes_getElem?, bytesAt, List.getElem?_map]
  by_cases hk : k < len
  · rw [if_pos hk, List.getElem?_range hk]
    rfl
  · rw [if_neg hk, List.getElem?_eq_none (by rw [List.length_range]; omega)]
    rfl

/-! ### The statements -/

/-- Settles O50: the sprite is the set of pixels the blit turns over, starting with no collision. -/
theorem blitIsClippedXor : Obligations.BlitIsClippedXor := by
  intro fb rows ox oy
  obtain ⟨hpix, hcoll⟩ := turnsOver_blit fb rows ox oy
  exact ⟨hpix, hcoll.trans (by simp)⟩

/-- Settles O51: the two exclusive ors with the same sprite cancel, and of the sprite's pixels those on after the first blit are those
that were off before it. -/
theorem blitTwiceRestores : Obligations.BlitTwiceRestores := by
  intro fb rows ox oy
  obtain ⟨hpix, -⟩ := blitIsClippedXor fb rows ox oy
  obtain ⟨hpix', hcoll'⟩ := blitIsClippedXor (blit fb rows ox oy).1 rows ox oy
  constructor
  · apply Framebuffer.ext
    intro cx cy hx hy
    rw [hpix' cx cy hx hy, hpix cx cy hx hy, Bool.xor_assoc, Bool.xor_self, Bool.xor_false]
  · rw [hcoll']
    refine exists_congr fun cx => exists_congr fun cy => and_congr_right fun hx => and_congr_right fun hy => ?_
    rw [hpix cx cy hx hy]
    cases fb.pixel cx cy <;> cases spriteBit rows ox oy cx cy <;> simp

/-- Settles O48: the blank framebuffer has every pixel off. -/
theorem clsTurnsEveryPixelOff : Obligations.ClsTurnsEveryPixelOff := fun s =>
  ⟨_, exec_cls s, Framebuffer.pixel_blank, rfl, rfl, rfl, fun _ => rfl⟩

/-- Settles O49: with `N` not 0 and its bytes in memory DRW completes, and the rows it reads are the bytes at `I`. -/
theorem drwBlitsAndReportsCollision : Obligations.DrwBlitsAndReportsCollision := by
  intro x y n s
  refine ⟨fun hn h => ?_, ?_, fun hn h => exec_of_raises (.drw x y n hn h)⟩
  · rw [← readBytes_eq_bytesAt]
    refine ⟨_, exec_drw_of_lt x y hn h, rfl, fun r => ?_, rfl, rfl, rfl, fun _ => rfl⟩
    exact State.setVF_reg _ r _
  · rintro rfl
    rw [exec_of_raises (.drwLength x y), encode_drw_zero]

end Sys2Proof.Machine
end

section
/-! The keypad statements (44_keypad_timers.md) and what runs of host commands between two ticks come to (R186). -/

namespace Sys2Proof.Machine

/-! ### What `exec` runs for each instruction -/

theorem exec_skp (x : Reg) (s : State) : exec (.skp x) s = .next (s.skipIf (isPressed s.key (s.reg x))) := rfl

theorem exec_sknp (x : Reg) (s : State) : exec (.sknp x) s = .next (s.skipIf (isReleased s.key (s.reg x))) := rfl

theorem exec_ldVxK_of_none {s : State} (h : s.key = none) (x : Reg) : exec (.ldVxK x) s = .next s := by
  simp only [exec, execLdVxK, h]

theorem exec_ldVxK_of_some {s : State} {k : KeyCode} (h : s.key = some k) (x : Reg) :
    exec (.ldVxK x) s = .next (s.setReg x (zext8 k)).advance := by
  simp only [exec, execLdVxK, h]

/-! ### The queries of the keypad -/

theorem isPressed_iff_exists (key : Option KeyCode) (c : Byte) :
    isPressed key c = true ↔ ∃ k, key = some k ∧ k.toNat = c.toNat := by
  rw [isPressed_iff, Option.map_eq_some_iff]

theorem isReleased_eq_not (key : Option KeyCode) (c : Byte) : isReleased key c = !isPressed key c := by
  cases key <;> rfl

/-! ### Runs of commands between two ticks -/

theorem performAll_cons {c : Command} {s t : State} (h : perform c s = .next t) (cs : List Command) :
    performAll (c :: cs) s = performAll cs t := by
  simp only [performAll, h]

theorem timerStep_ne_setKey (k : Option KeyCode) : Command.timerStep ≠ .setKey k := nofun

theorem lastKeySet_append_setKey (commands : List Command) (k : Option KeyCode) :
    lastKeySet (commands ++ [.setKey k]) = some k := by
  rw [lastKeySet, List.foldl_append]
  rfl

theorem lastKeySet_append_of_ne {c : Command} (h : ∀ k, c ≠ .setKey k) (commands : List Command) :
    lastKeySet (commands ++ [c]) = lastKeySet commands := by
  rw [lastKeySet, List.foldl_append]
  cases c
  case setKey k => exact absurd rfl (h k)
  all_goals rfl

/-- A key set first is the last one set where no later command sets one. -/
theorem lastKeySet_setKey_cons (k : Option KeyCode) (commands : List Command) :
    lastKeySet (.setKey k :: commands) = some ((lastKeySet commands).getD k) := by
  induction commands using List.reverseRecOn with
  | nil => rfl
  | append_singleton cs c ih =>
    rw [← List.cons_append]
    by_cases hc : ∃ k', c = .setKey k'
    · obtain ⟨k', rfl⟩ := hc
      rw [lastKeySet_append_setKey, lastKeySet_append_setKey, Option.getD_some]
    · have hne : ∀ k', c ≠ .setKey k' := fun k' h => hc ⟨k', h⟩
      rw [lastKeySet_append_of_ne hne, lastKeySet_append_of_ne hne, ih]

theorem lastKeySet_replicate_timerStep (n : Nat) : lastKeySet (List.replicate n .timerStep) = none := by
  induction n with
  | zero => rfl
  | succ n ih => rw [List.replicate_succ', lastKeySet_append_of_ne timerStep_ne_setKey, ih]

/-- A run of TIMER_STEP and SET_KEY commands is its number of steps and its last key, whatever the order (R186). -/
theorem performAll_eq_betweenTicks {commands : List Command} (h : ∀ c ∈ commands, c.betweenTicks = true) (s : State) :
    performAll commands s = .next (betweenTicks (commands.count .timerStep) (lastKeySet commands) s) := by
  induction commands generalizing s with
  | nil => exact congrArg Host.Outcome.next (betweenTicks_nothing s).symm
  | cons c cs ih =>
    obtain ⟨hc, hcs⟩ := List.forall_mem_cons.1 h
    cases c
    case timerStep =>
      rw [performAll_cons (t := timerStep s) rfl, ih hcs, betweenTicks_timerStep, List.count_cons_self]
      rfl
    case setKey k =>
      rw [performAll_cons (t := setKey k s) rfl, ih hcs, betweenTicks_setKey, lastKeySet_setKey_cons,
        List.count_cons_of_ne (timerStep_ne_setKey k).symm]
    all_goals cases hc

/-- The run of `n` steps that ends with the key `k`, where one is given. -/
def runOf (n : Nat) (k : Option (Option KeyCode)) : List Command := List.replicate n .timerStep ++ (k.map .setKey).toList

theorem runOf_betweenTicks (n : Nat) (k : Option (Option KeyCode)) : ∀ c ∈ runOf n k, c.betweenTicks = true := by
  intro c hc
  rcases List.mem_append.1 hc with h | h
  · rw [List.eq_of_mem_replicate h]
    rfl
  · obtain ⟨key, -, rfl⟩ := Option.map_eq_some_iff.1 (Option.mem_toList.1 h)
    rfl

theorem count_runOf (n : Nat) (k : Option (Option KeyCode)) : (runOf n k).count .timerStep = n := by
  cases k <;> simp [runOf]

theorem lastKeySet_runOf (n : Nat) (k : Option (Option KeyCode)) : lastKeySet (runOf n k) = k := by
  cases k with
  | none => exact (congrArg lastKeySet (List.append_nil _)).trans (lastKeySet_replicate_timerStep n)
  | some k => exact lastKeySet_append_setKey _ k

/-! ### The statements -/

/-- Settles O52: `is_released` is the negation of `is_pressed`, so SKNP skips where SKP does not. -/
theorem keySkips : Obligations.KeySkips := by
  intro x s
  constructor
  · rw [exec_skp, s.skipIf_eq_of_iff (isPressed_iff_exists s.key (s.reg x))]
  · rw [exec_sknp, s.skipIf_eq_of_iff (p := ¬ ∃ k, s.key = some k ∧ k.toNat = (s.reg x).toNat)
      (by rw [isReleased_eq_not, Bool.not_eq_true', ← Bool.not_eq_true, isPressed_iff_exists])]
    simp only [ite_not]

/-- Settles O53: with a key held it is the write of one register. -/
theorem waitForKey : Obligations.WaitForKey := by
  intro x s
  refine ⟨fun h => exec_ldVxK_of_none h x, fun k h => ?_⟩
  rw [← zext8_eq]
  exact exec_setReg_advance (exec_ldVxK_of_some h x)

/-- Settles O56: a run of the two commands is `betweenTicks` of its number of steps and its last key, and `runOf` reaches every pair
of them. -/
theorem timerStepCountsDown : Obligations.TimerStepCountsDown := by
  refine ⟨fun s => ⟨_, rfl, countDown_toNat s.dt, countDown_toNat s.st, rfl⟩, fun commands s h => ?_, fun n k => ?_⟩
  · refine ⟨_, performAll_eq_betweenTicks h s, countDownBy_toNat _ s.dt, countDownBy_toNat _ s.st, ?_, rfl⟩
    rw [betweenTicks_key]
    cases lastKeySet commands <;> rfl
  · refine ⟨runOf n k, runOf_betweenTicks n k, fun s => ?_⟩
    rw [performAll_eq_betweenTicks (runOf_betweenTicks n k), count_runOf, lastKeySet_runOf]
    exact congrArg Host.Outcome.next (betweenTicks_eq n k s)

end Sys2Proof.Machine
end

section
/-! The statements about the host's reads, RESET, LOAD and the state after reset (43_display.md, 70_reset_and_hazards.md). -/

namespace Sys2Proof.Machine

/-! ### Memory as reset leaves it -/

/-- The glyph table of the model, byte by byte against the table as R49 prints it. -/
theorem unlisted_eq (a : Nat) : Memory.unlisted a = if a < 80 then fontByte (a / 5) (a % 5) else 0 := by
  split
  · next h =>
    have htable : ∀ b < 80, Memory.unlisted b = fontByte (b / 5) (b % 5) := by decide
    exact htable a h
  · next h => exact List.getD_eq_default _ _ (Nat.le_of_not_lt h)

theorem read_resetMemory (image : List Byte) (a : Nat) : (resetMemory image).read a =
    if a < 80 then fontByte (a / 5) (a % 5)
    else if 0x200 ≤ a ∧ a < 0x200 + image.length then image.getD (a - 0x200) 0 else 0 := by
  rw [resetMemory, read_imageCells, unlisted_eq, show Config.programBase = 0x200 from rfl]
  by_cases h : a < 80
  · rw [if_neg (by omega), if_pos h, if_pos h]
  · rw [if_neg h, if_neg h]

theorem replicate_zero_reg (r : Reg) : (Vector.replicate 16 0x00 : Regs)[r] = 0x00 := by
  simp

/-! ### The statements -/

/-- Settles O57: `fbRead` is the pixel inside the grid and nothing outside it. -/
theorem hostReadsChangeNothing : Obligations.HostReadsChangeNothing := by
  refine fun cx cy s => ⟨rfl, rfl, rfl, fun hx hy => ?_, fun h => ?_⟩
  · have : fbRead s cx cy = some s.fb[cy][cx] := by
      rw [← Framebuffer.pixel_of_lt s.fb hx hy]
      exact if_pos ⟨hx, hy⟩
    simp only [answer, this]
  · have : fbRead s cx cy = none := if_neg h
    simp only [answer, this]

/-- Settles O58: `resetMachine` gives every field, and memory reads as `read_resetMemory` says. -/
theorem resetRebuildsTheMachine : Obligations.ResetRebuildsTheMachine := fun s h =>
  ⟨resetMachine s, rfl, read_resetMemory s.image, wf_resetMemory h, replicate_zero_reg, rfl, rfl, rfl, rfl,
    Framebuffer.pixel_blank, rfl, rfl, rfl, rfl, rfl, rfl, rfl, rfl, rfl⟩

/-- Settles O59: the image is the first 3584 bytes. -/
theorem loadReplacesTheImageAndResets : Obligations.LoadReplacesTheImageAndResets := by
  refine fun bytes s => ⟨bytes.take 3584, by rw [List.length_take, Nat.min_comm], fun k hk => ?_, rfl⟩
  rw [List.length_take] at hk
  exact List.getElem?_take_of_lt (by omega)

/-- Settles O60: with nothing listed, memory reads as the glyph table and zeros. -/
theorem resetStateValues : Obligations.ResetStateValues :=
  ⟨rfl, rfl, unlisted_eq, replicate_zero_reg, rfl, rfl, rfl, rfl, Framebuffer.pixel_blank, rfl, rfl, rfl⟩

end Sys2Proof.Machine
end
